-- ==== Sys2Proof/Word.lean ====
section
/-! DEFINITION. The word types of the machine (spec/00_scope.md R8, R9) and plain concatenation of fields. -/

namespace Sys2Proof

/-- An 8-bit quantity: a general register, a timer, a memory byte, the constant `kk`. -/
abbrev Byte := BitVec 8

/-- A 16-bit quantity: `I`, `PC`, a call stack entry, an instruction word. -/
abbrev Word := BitVec 16

/-- The 12-bit address field `nnn`. -/
abbrev Addr12 := BitVec 12

/-- The number of a general register, 0 to 15: every value of a 4-bit field names one (spec/30_encoding.md R82). -/
abbrev RegNum := Fin 16

/-- The number of a logical key, 0x0 to 0xF (spec/10_state.md R32). -/
abbrev KeyNum := Fin 16

end Sys2Proof
end

