-- ==== Sys2Proof/Config.lean ====
section
/-! DEFINITION. The implementation parameters (spec/00_scope.md R6) and the one free value, the random byte (R7). The font
table, a configuration value too, stands in Machine/Font.lean. -/

namespace Sys2Proof.Config

/-- `MEM_SIZE`: bytes of memory. -/
@[simp] abbrev memSize : Nat := 4096

/-- `FONT_BYTES`: the font table fills addresses 0 to 79. -/
@[simp] abbrev fontBytes : Nat := 80

/-- `GLYPH_BYTES`: bytes of one glyph. -/
@[simp] abbrev glyphBytes : Nat := 5

/-- `PROG_BASE`: where the loader writes and where `PC` starts. -/
@[simp] abbrev progBase : Nat := 512

/-- `MAX_PROG_LEN`: the longest program the loader boundary accepts. -/
@[simp] abbrev maxProgLen : Nat := 3583

/-- `FETCH_LIMIT`: a fetch from this address or above fails (spec/20_memory.md R57). -/
@[simp] abbrev fetchLimit : Nat := 4094

/-- `STACK_DEPTH`: entries of the call stack. -/
@[simp] abbrev stackDepth : Nat := 16

/-- The free value of the step's input `rand` when the host has presented no byte: the n-th byte drawn.
It has no body: any byte, unrelated from one draw to the next (spec/00_scope.md R7, decision D20). DESIGN CHOICE, safe: log 1. -/
opaque freeRand : Nat → Byte

end Sys2Proof.Config
end

