-- ==== Sys2Proof/Machine/State.lean ====
section
/-! DEFINITION. The machine's state (spec/10_state.md R20), the four errors (spec/60_exceptions.md R241), the refusal, and the
state after reset (spec/10_state.md R36, spec/70_reset_and_hazards.md R280). -/

namespace Sys2Proof.Machine

/-- Memory as a list of (address, byte) pairs: addresses strictly rising, no entry equal to what an unlisted address reads
as (`Memory.wf` in Machine/Ops.lean). -/
abbrev Memory := List Host.Cell

/-- The pixel plane: 32 rows of 64 pixels, row 0 first, column 0 first in a row (spec/10_state.md R31). -/
abbrev Plane := Vector (Vector Bool 64) 32

/-- One field per row of R20, and two of the model's own for the step's free input `rand`. -/
structure State where
  /-- `V[0]` to `V[15]` (R21, R22) -/
  v : Vector Byte 16
  /-- `I` (R24) -/
  i : Word
  /-- `PC` (R25) -/
  pc : Word
  /-- `STACK[0]` to `STACK[15]` (R26) -/
  stack : Vector Word 16
  /-- `SP`, the number of stack entries in use, 0 to 16 (R27) -/
  sp : Fin 17
  /-- `DT` (R28) -/
  dt : Byte
  /-- `ST` (R29) -/
  st : Byte
  /-- `MEM` (R30) -/
  mem : Memory
  /-- `PIX` (R31) -/
  pix : Plane
  /-- `KEY`, true is pressed (R32) -/
  key : Vector Bool 16
  /-- The MODEL's own: bytes the host has presented on the input `rand` (spec/00_scope.md R7), next to be drawn first. -/
  rand : List Byte
  /-- The MODEL's own: how many bytes of `Config.freeRand` have been drawn. -/
  draws : Nat
deriving DecidableEq, Repr

/-- The errors a step can end with (spec/60_exceptions.md R240, R241): "fatal", they change no state (R246). Each is the
hardware's own, so it is safe: the model stops where the hardware stops. -/
inductive Fault where
  /-- Code 1. Raised by the decode stage of any step, for a word `decode` rejects; `word` is the two bytes fetched (R242). Safe. -/
  | decodeError (pc word : Word)
  /-- Code 2. Raised by `Call` with `SP` = 16 (R243). Safe. -/
  | stackOverflow (pc : Word)
  /-- Code 3. Raised by `Ret` with `SP` = 0 (R244). Safe. -/
  | stackUnderflow (pc : Word)
  /-- Code 4. Raised by the fetch stage, and by `Draw`, `Bcd`, `Store`, `Load` for a range that leaves memory; `addr` is the
  lowest address needed that is not allowed (R245). Safe. -/
  | outOfBounds (pc : Word) (addr : Nat)
deriving DecidableEq, Repr

/-- What the model refuses to run. No arm of `exec` is refused in this model. -/
inductive Refusal where
  /-- Raised by an arm of `exec` whose instruction has no meaning yet. Safe: nothing can be proved of such a step. -/
  | notModelled (mnemonic : String)
deriving DecidableEq, Repr

/-- The state after reset (R36): registers, timers, `I`, `SP` and the stack entries 0, `PC` 512, memory with nothing listed
(the font at 0 to 79, 0 above), the plane clear, every key released. The zeros of the stack entries and of the keypad are the spec's
own decision D18: log 8. `rand` and `draws` are the model's (DESIGN CHOICE): log 1. -/
def State.reset : State where
  v := Vector.replicate 16 0
  i := 0
  pc := BitVec.ofNat 16 Config.progBase
  stack := Vector.replicate 16 0
  sp := 0
  dt := 0
  st := 0
  mem := []
  pix := Vector.replicate 32 (Vector.replicate 64 false)
  key := Vector.replicate 16 false
  rand := []
  draws := 0

end Sys2Proof.Machine
end

