-- ==== Sys2Proof/Machine/Font.lean ====
section
/-! DEFINITION. The font table, a configuration value (spec/20_memory.md R52, R53), and the reset contents of memory. -/

namespace Sys2Proof

/-- `FONT`, glyphs 0 to 7: five bytes each, top row first. -/
def Config.fontLow : List Byte :=
  [0xF0, 0x90, 0x90, 0x90, 0xF0] ++ [0x20, 0x60, 0x20, 0x20, 0x70] ++ [0xF0, 0x10, 0xF0, 0x80, 0xF0] ++
  [0xF0, 0x10, 0xF0, 0x10, 0xF0] ++ [0x90, 0x90, 0xF0, 0x10, 0x10] ++ [0xF0, 0x80, 0xF0, 0x10, 0xF0] ++
  [0xF0, 0x80, 0xF0, 0x90, 0xF0] ++ [0xF0, 0x10, 0x20, 0x40, 0x40]

/-- `FONT`, glyphs 8 to F. -/
def Config.fontHigh : List Byte :=
  [0xF0, 0x90, 0xF0, 0x90, 0xF0] ++ [0xF0, 0x90, 0xF0, 0x10, 0xF0] ++ [0xF0, 0x90, 0xF0, 0x90, 0x90] ++
  [0xE0, 0x90, 0xE0, 0x90, 0xE0] ++ [0xF0, 0x80, 0x80, 0x80, 0xF0] ++ [0xE0, 0x90, 0x90, 0x90, 0xE0] ++
  [0xF0, 0x80, 0xF0, 0x80, 0xF0] ++ [0xF0, 0x80, 0xF0, 0x80, 0x80]

/-- `FONT`: the customary 80 bytes. PRESUMED by the spec itself ("from general knowledge, not in source"), unsafe: log 6.
No statement of the model depends on a byte of it. -/
def Config.font : List Byte := Config.fontLow ++ Config.fontHigh

namespace Machine

/-- What an address reads as that memory does not list: its reset contents, the font table at 0 to 79 and 0 above
(spec/10_state.md R36). The 0 at 80 to 511 is the spec's own decision D18: log 7. -/
def Memory.initial (a : Nat) : Byte := Config.font.getD a 0

end Machine

end Sys2Proof
end

