-- ==== Sys2Proof/Machine/Ops.lean ====
section
/-! DEFINITION. The shared operations: registers, memory, the call stack, the random input, how a step completes, and raising an
error, which is all that "taking an exception" is on this hardware (spec/60_exceptions.md R240, R249). -/

namespace Sys2Proof.Machine

/-- What a meaning answers. -/
abbrev Result := Host.Outcome State Fault Refusal

/-! ## General registers (spec/10_state.md R21): none is hardwired -/

/-- `V[x]` -/
def State.reg (s : State) (x : RegNum) : Byte := s.v[x]

/-- `V[x] <- b` -/
def State.setReg (s : State) (x : RegNum) (b : Byte) : State := { s with v := s.v.set x b }

/-- The flag register `VF` is register 15 (R22). -/
def vf : RegNum := 15

/-! ## Writing the other state elements (spec/00_scope.md R11, `r <- v`) -/

/-- `PC <- a` -/
def State.setPc (s : State) (a : Word) : State := { s with pc := a }

/-- `I <- a` -/
def State.setIndex (s : State) (a : Word) : State := { s with i := a }

/-- `DT <- b` -/
def State.setDt (s : State) (b : Byte) : State := { s with dt := b }

/-- `ST <- b` -/
def State.setSt (s : State) (b : Byte) : State := { s with st := b }

/-- `PIX <- p` -/
def State.setPix (s : State) (p : Plane) : State := { s with pix := p }

/-! ## Memory (spec/20_memory.md R50, R55) -/

/-- `MEM[a]` -/
def Memory.read : Memory → Nat → Byte
  | [], a => Memory.initial a
  | c :: m, a => if c.1 = a then c.2 else Memory.read m a

/-- Memory with no entry for `a`. -/
def Memory.erase (m : Memory) (a : Nat) : Memory := m.filter fun c => c.1 != a

/-- Memory with the entry put before the first one at a higher address. -/
def Memory.insert : Memory → Host.Cell → Memory
  | [], c => [c]
  | d :: m, c => if d.1 < c.1 then d :: Memory.insert m c else c :: d :: m

/-- `MEM[a] <- b`. Writing what the unlisted address reads as removes the entry, so that equal memories are equal lists. -/
def Memory.write (m : Memory) (a : Nat) (b : Byte) : Memory :=
  if b = Memory.initial a then m.erase a else (m.erase a).insert (a, b)

/-- Writes consecutive bytes, the first at `base`. -/
def Memory.writeList : Memory → Nat → List Byte → Memory
  | m, _, [] => m
  | m, base, b :: bs => Memory.writeList (m.write base b) (base + 1) bs

/-- `k` consecutive bytes, the first at `base`. -/
def Memory.readList (m : Memory) (base k : Nat) : List Byte := (List.range k).map fun j => m.read (base + j)

/-- The entry is at an address that exists and says something its address does not say unlisted. -/
def cellOk (c : Host.Cell) : Bool := decide (c.1 < Config.memSize) && decide (c.2 ≠ Memory.initial c.1)

/-- The canonical form: addresses strictly rising, every entry `cellOk`. -/
def Memory.wf : Memory → Bool
  | [] => true
  | [c] => cellOk c
  | c :: d :: m => cellOk c && decide (c.1 < d.1) && Memory.wf (d :: m)

/-- Writes bytes from `I` on. -/
def State.storeBytes (s : State) (bytes : List Byte) : State := { s with mem := s.mem.writeList s.i.toNat bytes }

/-- `V[0..x] <- MEM[I..I+x]`; the registers above `x` stay (spec/42_index_memory.md R186). -/
def State.loadRegs (s : State) (x : RegNum) : State :=
  { s with v := Vector.ofFn fun r : Fin 16 => if r ≤ x then s.mem.read (s.i.toNat + r) else s.v[r] }

/-! ## Completing a step (spec/40_flow.md R120) -/

/-- `next <- a`, committed to `PC`. -/
def State.goto (s : State) (a : Word) : Result := .next (s.setPc a)

/-- The default `next <- PC + 2`. -/
def State.advance (s : State) : Result := s.goto (s.pc + 2)

/-- `next <- PC + 4` when the condition holds, else `PC + 2` (R128, R133). -/
def State.skipIf (s : State) (c : Bool) : Result := s.goto (if c then s.pc + 4 else s.pc + 2)

/-- `return Blocked`: nothing changes, `PC` included (spec/44_keypad_timers.md R224; decision D30, log 3). -/
def State.block (s : State) : Result := .next s

/-- `raise`: the step ends with the error and no state of its own (spec/60_exceptions.md R246, R249): nothing is saved, no
mode changes, control goes nowhere. There is no return from it. Log 4. -/
def raise (f : Fault) : Result := .fault f

/-- The code of an error (spec/60_exceptions.md R241); a label only. -/
def Fault.code : Fault → Nat
  | .decodeError _ _ => 1
  | .stackOverflow _ => 2
  | .stackUnderflow _ => 3
  | .outOfBounds _ _ => 4

/-- The `pc` of an error's payload (R241). -/
def Fault.pc : Fault → Word
  | .decodeError pc _ => pc
  | .stackOverflow pc => pc
  | .stackUnderflow pc => pc
  | .outOfBounds pc _ => pc

/-! ## The bounds test (spec/20_memory.md R56; decision D11, log 16) -/

/-- Some byte of the range `I` … `I + k - 1` has no address. The sum is not truncated; an empty range has no such byte. -/
def State.rangeFails (s : State) (k : Nat) : Bool := decide (0 < k ∧ Config.memSize < s.i.toNat + k)

/-- The error of a range that leaves memory: `addr` is the lowest address of the range that does not exist (R245). -/
def State.rangeFault (s : State) : Fault := .outOfBounds s.pc (max s.i.toNat Config.memSize)

/-- Tests the whole range before anything is accessed. -/
def State.guardRange (s : State) (k : Nat) (body : Result) : Result :=
  if s.rangeFails k then raise s.rangeFault else body

/-! ## The call stack (spec/10_state.md R26, R27; decision D4, log 10) -/

/-- `STACK[SP] <- a; SP <- SP + 1`, for a stack that is not full. -/
def State.push (s : State) (a : Word) (h : s.sp.val < 16) : State :=
  { s with stack := s.stack.set s.sp.val a h, sp := ⟨s.sp.val + 1, by omega⟩ }

/-- The entry `Ret` pops: `STACK[SP - 1]`, for a stack that is not empty. -/
def State.top (s : State) (h : 0 < s.sp.val) : Word := s.stack[s.sp.val - 1]'(by omega)

/-- `SP <- SP - 1`; the entry keeps its value (spec/40_flow.md R125). -/
def State.pop (s : State) : State := { s with sp := ⟨s.sp.val - 1, by omega⟩ }

/-! ## The random input (spec/00_scope.md R7; decision D20, log 1) -/

/-- The byte `rand` of this step: the one the host has presented, else a free value. -/
def State.randByte (s : State) : Byte :=
  match s.rand with
  | b :: _ => b
  | [] => Config.freeRand s.draws

/-- The state once that byte is drawn: "exactly one byte is drawn per executed `Random`" (spec/41_alu.md R163). -/
def State.takeRand (s : State) : State :=
  match s.rand with
  | _ :: bs => { s with rand := bs }
  | [] => { s with draws := s.draws + 1 }

end Sys2Proof.Machine
end

