-- ==== Sys2Proof/Machine/Operands.lean ====
section
/-! DEFINITION. The operand forms: every way an instruction turns a field or a register into a value it uses
(spec/30_encoding.md R82). Nothing is sign-extended; a register number and `kk` are used as they stand. -/

namespace Sys2Proof.Machine

/-- `zext_16(nnn)`: an address field as a value for `PC` or `I` (R82). -/
def zextAddr (nnn : Addr12) : Word := BitVec.setWidth 16 nnn

/-- `zext_16(V[x])` -/
def zextByte (b : Byte) : Word := BitVec.setWidth 16 b

/-- The target of `JumpOffset`: `V[0] + nnn`, at most 4350, not reduced modulo 4096 (spec/40_flow.md R132). -/
def State.offsetTarget (s : State) (nnn : Addr12) : Word := zextByte (s.reg 0) + zextAddr nnn

/-- `I + V[x]` modulo 65536 (spec/42_index_memory.md R182; decision D14, log 12). -/
def State.indexSum (s : State) (x : RegNum) : Word := s.i + zextByte (s.reg x)

/-- `V[x] * 5`, the whole value, not its low nibble (spec/42_index_memory.md R183). -/
def State.glyphAddr (s : State) (x : RegNum) : Word := BitVec.ofNat 16 ((s.reg x).toNat * Config.glyphBytes)

/-- The key `V[x]` names: its low four bits (spec/44_keypad_timers.md R222; decision D15, log 13). -/
def State.keyNum (s : State) (x : RegNum) : KeyNum := ((s.reg x).extractLsb' 0 4).toFin

/-- `KEY[k]`, the keypad's `is_pressed` (spec/44_keypad_timers.md R220). -/
def State.keyDown (s : State) (k : KeyNum) : Bool := s.key[k]

/-- `first_pressed()`: the lowest key that is down (spec/44_keypad_timers.md R221). -/
def State.firstPressed (s : State) : Option KeyNum := (List.finRange 16).find? fun k => s.keyDown k

/-- A key's number as a register value. -/
def keyByte (k : KeyNum) : Byte := BitVec.ofNat 8 k.val

/-- The three decimal digits of a value, hundreds first (spec/42_index_memory.md R184). -/
def bcdDigits (v : Byte) : List Byte :=
  [BitVec.ofNat 8 (v.toNat / 100), BitVec.ofNat 8 (v.toNat / 10 % 10), BitVec.ofNat 8 (v.toNat % 10)]

/-- `V[0]`, …, `V[x]`, `x` included (spec/42_index_memory.md R185). -/
def State.regsUpTo (s : State) (x : RegNum) : List Byte := s.v.toList.take (x.val + 1)

/-- An ephemeral sprite (spec/10_state.md R33, spec/43_display.md R202): its rows, top row first, and its origin. -/
structure Sprite where
  x0 : Nat
  y0 : Nat
  rows : List Byte
deriving DecidableEq, Repr

/-- The sprite of `Draw`: `n` bytes from `I`, origin column `V[x]`, origin row `V[y]`. -/
def State.sprite (s : State) (x y : RegNum) (n : Fin 16) : Sprite where
  x0 := (s.reg x).toNat
  y0 := (s.reg y).toNat
  rows := s.mem.readList s.i.toNat n.val

end Sys2Proof.Machine
end

