-- ==== Sys2Proof/Machine/Flags.lean ====
section
/-! DEFINITION. The 8-bit arithmetic with the flag it leaves in `VF` (spec/41_alu.md R151, R164): the exact result over the
integers, narrowed at the end. There is no half-carry (R165). -/

namespace Sys2Proof.Machine

/-- A result and the flag that goes with it. -/
structure Flagged where
  value : Byte
  flag : Bool
deriving DecidableEq, Repr

/-- A flag as the byte `VF` holds: 0 or 1 (spec/10_state.md R22). -/
def flagByte (b : Bool) : Byte := if b then 1 else 0

/-- `a + b`; the flag is the carry out of bit 7 (R158). -/
def addFlagged (a b : Byte) : Flagged :=
  let sum := a.toNat + b.toNat
  ⟨BitVec.ofNat 8 sum, decide (255 < sum)⟩

/-- `a - b`, 256 added first on a borrow; the flag is 1 when there is no borrow (R159, R161). -/
def subFlagged (a b : Byte) : Flagged :=
  if b.toNat ≤ a.toNat then ⟨BitVec.ofNat 8 (a.toNat - b.toNat), true⟩
  else ⟨BitVec.ofNat 8 (a.toNat + 256 - b.toNat), false⟩

/-- `a >> 1`, logical; the flag is the bit shifted out, bit 0 (R160). -/
def shrFlagged (a : Byte) : Flagged := ⟨BitVec.ofNat 8 (a.toNat / 2), a.getLsbD 0⟩

/-- `(a << 1) mod 256`; the flag is the bit shifted out, bit 7 (R162). -/
def shlFlagged (a : Byte) : Flagged := ⟨BitVec.ofNat 8 (2 * a.toNat), a.getLsbD 7⟩

/-- `(a + kk) mod 256`, no flag (R153). -/
def addWrapped (a kk : Byte) : Byte := BitVec.ofNat 8 (a.toNat + kk.toNat)

/-- `VF <- flag` -/
def State.setFlag (s : State) (b : Bool) : State := s.setReg vf (flagByte b)

/-- The result to `V[x]` first, the flag to `VF` second (R150; decision D9, log 11). -/
def State.setFlagged (s : State) (x : RegNum) (r : Flagged) : State := (s.setReg x r.value).setFlag r.flag

end Sys2Proof.Machine
end

