-- ==== Sys2Proof/Machine/Alu.lean ====
section
/-! DEFINITION. The instructions that compute an 8-bit value into a register (spec/41_alu.md). -/

namespace Sys2Proof.Machine

/-- `LoadConst(x, kk)` (R152) -/
def execLoadConst (x : RegNum) (kk : Byte) (s : State) : Result := (s.setReg x kk).advance

/-- `AddConst(x, kk)` (R153) -/
def execAddConst (x : RegNum) (kk : Byte) (s : State) : Result := (s.setReg x (addWrapped (s.reg x) kk)).advance

/-- `Move(x, y)` (R154) -/
def execMove (x y : RegNum) (s : State) : Result := (s.setReg x (s.reg y)).advance

/-- `Or(x, y)` (R155) -/
def execOr (x y : RegNum) (s : State) : Result := (s.setReg x (s.reg x ||| s.reg y)).advance

/-- `And(x, y)` (R156) -/
def execAnd (x y : RegNum) (s : State) : Result := (s.setReg x (s.reg x &&& s.reg y)).advance

/-- `Xor(x, y)` (R157) -/
def execXor (x y : RegNum) (s : State) : Result := (s.setReg x (s.reg x ^^^ s.reg y)).advance

/-- `Add(x, y)` (R158) -/
def execAdd (x y : RegNum) (s : State) : Result := (s.setFlagged x (addFlagged (s.reg x) (s.reg y))).advance

/-- `Sub(x, y)` (R159) -/
def execSub (x y : RegNum) (s : State) : Result := (s.setFlagged x (subFlagged (s.reg x) (s.reg y))).advance

/-- `ShiftRight(x)` (R160): shifts `V[x]`, never `V[y]`. -/
def execShiftRight (x : RegNum) (s : State) : Result := (s.setFlagged x (shrFlagged (s.reg x))).advance

/-- `SubN(x, y)` (R161) -/
def execSubN (x y : RegNum) (s : State) : Result := (s.setFlagged x (subFlagged (s.reg y) (s.reg x))).advance

/-- `ShiftLeft(x)` (R162) -/
def execShiftLeft (x : RegNum) (s : State) : Result := (s.setFlagged x (shlFlagged (s.reg x))).advance

/-- `Random(x, kk)` (R163) -/
def execRandom (x : RegNum) (kk : Byte) (s : State) : Result := (s.takeRand.setReg x (s.randByte &&& kk)).advance

end Sys2Proof.Machine
end

