-- ==== Sys2Proof/Machine/Display.lean ====
section
/-! DEFINITION. The pixel plane and its two instructions (spec/43_display.md). -/

namespace Sys2Proof.Machine

/-- `PIX[row][col]` -/
def Plane.pixel (p : Plane) (row : Fin 32) (col : Fin 64) : Bool := p[row][col]

/-- `PIX[row][col] <- PIX[row][col] ^ 1` -/
def Plane.flip (p : Plane) (row : Fin 32) (col : Fin 64) : Plane := p.set row (p[row].set col (!p.pixel row col))

/-- The plane with every pixel 0. -/
def Plane.clear : Plane := Vector.replicate 32 (Vector.replicate 64 false)

/-- Column offset `c` of a sprite row is bit `7 - c`: bit 7 is the leftmost pixel (R202; decision D21, log 15). -/
def spriteBit (b : Byte) (c : Nat) : Bool := b.getLsbD (7 - c)

/-- The column of an offset: wraps at the right edge (R204). -/
def wrapCol (x0 c : Nat) : Fin 64 := Fin.ofNat 64 (x0 + c)

/-- The row of an offset: wraps at the bottom edge (R204). -/
def wrapRow (y0 r : Nat) : Fin 32 := Fin.ofNat 32 (y0 + r)

/-- A blit in progress: the plane and whether a pixel has gone from 1 to 0. -/
structure Blit where
  plane : Plane
  collision : Bool
deriving DecidableEq, Repr

/-- One bit of a sprite onto one pixel: a 1 flips it, and notes a collision when it was 1; a 0 leaves it alone (R203). -/
def Blit.bit (bit : Bool) (row : Fin 32) (col : Fin 64) (d : Blit) : Blit :=
  if bit then ⟨d.plane.flip row col, d.collision || d.plane.pixel row col⟩ else d

/-- Row `r` of a sprite: columns 0 to 7 in turn. -/
def Blit.row (x0 : Nat) (row : Fin 32) (b : Byte) (d : Blit) : Blit :=
  (List.range 8).foldl (fun d c => d.bit (spriteBit b c) row (wrapCol x0 c)) d

/-- The rows of a sprite from row `r` on. -/
def Blit.rows (x0 y0 : Nat) : Nat → List Byte → Blit → Blit
  | _, [], d => d
  | r, b :: bs, d => Blit.rows x0 y0 (r + 1) bs (d.row x0 (wrapRow y0 r) b)

/-- The Display's `draw(sprite)`: the new plane and the collision (R200, R203). -/
def Plane.draw (p : Plane) (sp : Sprite) : Blit := Blit.rows sp.x0 sp.y0 0 sp.rows ⟨p, false⟩

/-- `Cls` (R201): the one direct set of the plane. -/
def execCls (s : State) : Result := (s.setPix Plane.clear).advance

/-- `Draw(x, y, n)` (R203): the origin is read before `VF` is written. -/
def execDraw (x y : RegNum) (n : Fin 16) (s : State) : Result :=
  let d := s.pix.draw (s.sprite x y n)
  s.guardRange n.val ((s.setPix d.plane).setFlag d.collision).advance

end Sys2Proof.Machine
end

