-- ==== Sys2Proof/Machine/Flow.lean ====
section
/-! DEFINITION. Control transfer (spec/40_flow.md): Ret, Jump, Call, the four skips, JumpOffset. -/

namespace Sys2Proof.Machine

/-- `Ret` (R125) -/
def execRet (s : State) : Result :=
  if h : 0 < s.sp.val then s.pop.goto (s.top h) else raise (.stackUnderflow s.pc)

/-- `Jump(nnn)` (R126) -/
def execJump (nnn : Addr12) (s : State) : Result := s.goto (zextAddr nnn)

/-- `Call(nnn)` (R127): pushes the address of the next instruction. -/
def execCall (nnn : Addr12) (s : State) : Result :=
  if h : s.sp.val < 16 then (s.push (s.pc + 2) h).goto (zextAddr nnn) else raise (.stackOverflow s.pc)

/-- `SkipEqConst(x, kk)` (R128) -/
def execSkipEqConst (x : RegNum) (kk : Byte) (s : State) : Result := s.skipIf (s.reg x == kk)

/-- `SkipNeqConst(x, kk)` (R129) -/
def execSkipNeqConst (x : RegNum) (kk : Byte) (s : State) : Result := s.skipIf (s.reg x != kk)

/-- `SkipEqReg(x, y)` (R130) -/
def execSkipEqReg (x y : RegNum) (s : State) : Result := s.skipIf (s.reg x == s.reg y)

/-- `SkipNeqReg(x, y)` (R131) -/
def execSkipNeqReg (x y : RegNum) (s : State) : Result := s.skipIf (s.reg x != s.reg y)

/-- `JumpOffset(nnn)` (R132): always register 0. -/
def execJumpOffset (nnn : Addr12) (s : State) : Result := s.goto (s.offsetTarget nnn)

end Sys2Proof.Machine
end

