-- ==== Sys2Proof/Machine/IndexMemory.lean ====
section
/-! DEFINITION. The index register and the memory instructions (spec/42_index_memory.md). None of `Bcd`, `Store`, `Load`
changes `I` (R180; decision D16, log 24). -/

namespace Sys2Proof.Machine

/-- `SetIndex(nnn)` (R181) -/
def execSetIndex (nnn : Addr12) (s : State) : Result := (s.setIndex (zextAddr nnn)).advance

/-- `AddIndex(x)` (R182): no flag. -/
def execAddIndex (x : RegNum) (s : State) : Result := (s.setIndex (s.indexSum x)).advance

/-- `SpriteAddr(x)` (R183) -/
def execSpriteAddr (x : RegNum) (s : State) : Result := (s.setIndex (s.glyphAddr x)).advance

/-- `Bcd(x)` (R184) -/
def execBcd (x : RegNum) (s : State) : Result := s.guardRange 3 (s.storeBytes (bcdDigits (s.reg x))).advance

/-- `Store(x)` (R185) -/
def execStore (x : RegNum) (s : State) : Result := s.guardRange (x.val + 1) (s.storeBytes (s.regsUpTo x)).advance

/-- `Load(x)` (R186) -/
def execLoad (x : RegNum) (s : State) : Result := s.guardRange (x.val + 1) (s.loadRegs x).advance

end Sys2Proof.Machine
end

