-- ==== Sys2Proof/Machine/KeypadTimers.lean ====
section
/-! DEFINITION. The keypad and timer instructions (spec/44_keypad_timers.md). -/

namespace Sys2Proof.Machine

/-- `SkipKey(x)` (R222) -/
def execSkipKey (x : RegNum) (s : State) : Result := s.skipIf (s.keyDown (s.keyNum x))

/-- `SkipNotKey(x)` (R223) -/
def execSkipNotKey (x : RegNum) (s : State) : Result := s.skipIf (!s.keyDown (s.keyNum x))

/-- `WaitKeyPress(x)` (R224) -/
def execWaitKeyPress (x : RegNum) (s : State) : Result :=
  match s.firstPressed with
  | none => s.block
  | some k => (s.setReg x (keyByte k)).advance

/-- `LoadDelay(x)` (R225) -/
def execLoadDelay (x : RegNum) (s : State) : Result := (s.setReg x s.dt).advance

/-- `SetDelay(x)` (R226) -/
def execSetDelay (x : RegNum) (s : State) : Result := (s.setDt (s.reg x)).advance

/-- `SetSound(x)` (R227) -/
def execSetSound (x : RegNum) (s : State) : Result := (s.setSt (s.reg x)).advance

end Sys2Proof.Machine
end

