-- ==== Sys2Proof/Syntax.lean ====
section
/-! DEFINITION. The 34 tagged operations (spec/30_encoding.md R84), one constructor per row of spec/opcode_table.json, each
with the operand fields the tag carries. -/

namespace Sys2Proof

/-- A decoded instruction: "a decoded, immutable tagged value, one of 34 variants". The order is the opcode map's. -/
inductive Instr where
  /-- `00E0` clear the display -/
  | cls
  /-- `00EE` return -/
  | ret
  /-- `1nnn` jump -/
  | jump (nnn : Addr12)
  /-- `2nnn` call -/
  | call (nnn : Addr12)
  /-- `3xkk` skip if `V[x]` equals `kk` -/
  | skipEqConst (x : RegNum) (kk : Byte)
  /-- `4xkk` skip if `V[x]` differs from `kk` -/
  | skipNeqConst (x : RegNum) (kk : Byte)
  /-- `5xy0` skip if `V[x]` equals `V[y]` -/
  | skipEqReg (x y : RegNum)
  /-- `6xkk` load a constant -/
  | loadConst (x : RegNum) (kk : Byte)
  /-- `7xkk` add a constant -/
  | addConst (x : RegNum) (kk : Byte)
  /-- `8xy0` copy -/
  | move (x y : RegNum)
  /-- `8xy1` bitwise OR -/
  | or (x y : RegNum)
  /-- `8xy2` bitwise AND -/
  | and (x y : RegNum)
  /-- `8xy3` bitwise exclusive OR -/
  | xor (x y : RegNum)
  /-- `8xy4` add, carry to VF -/
  | add (x y : RegNum)
  /-- `8xy5` subtract `V[x] - V[y]`, not-borrow to VF -/
  | sub (x y : RegNum)
  /-- `8x-6` shift right -/
  | shiftRight (x : RegNum)
  /-- `8xy7` subtract `V[y] - V[x]`, not-borrow to VF -/
  | subN (x y : RegNum)
  /-- `8x-E` shift left -/
  | shiftLeft (x : RegNum)
  /-- `9xy-` skip if `V[x]` differs from `V[y]` -/
  | skipNeqReg (x y : RegNum)
  /-- `Annn` set `I` -/
  | setIndex (nnn : Addr12)
  /-- `Bnnn` jump to `nnn + V[0]` -/
  | jumpOffset (nnn : Addr12)
  /-- `Cxkk` random byte under a mask -/
  | random (x : RegNum) (kk : Byte)
  /-- `Dxyn` draw an `n`-row sprite at (`V[x]`, `V[y]`) -/
  | draw (x y : RegNum) (n : Fin 16)
  /-- `Ex9E` skip if the key `V[x]` is down -/
  | skipKey (x : RegNum)
  /-- `ExA1` skip if the key `V[x]` is up -/
  | skipNotKey (x : RegNum)
  /-- `Fx07` read the delay timer -/
  | loadDelay (x : RegNum)
  /-- `Fx0A` wait for a key -/
  | waitKeyPress (x : RegNum)
  /-- `Fx15` write the delay timer -/
  | setDelay (x : RegNum)
  /-- `Fx18` write the sound timer -/
  | setSound (x : RegNum)
  /-- `Fx1E` add a register to `I` -/
  | addIndex (x : RegNum)
  /-- `Fx29` point `I` at a glyph -/
  | spriteAddr (x : RegNum)
  /-- `Fx33` three decimal digits to memory -/
  | bcd (x : RegNum)
  /-- `Fx55` store registers 0 to `x` -/
  | store (x : RegNum)
  /-- `Fx65` load registers 0 to `x` -/
  | load (x : RegNum)
deriving DecidableEq, Repr

end Sys2Proof
end

