-- ==== Sys2Proof/Machine/Dispatch.lean ====
section
/-! DEFINITION. One arm per instruction, each one call of its meaning. -/

namespace Sys2Proof.Machine

def exec (i : Instr) (s : State) : Host.Outcome State Fault Refusal :=
  match i with
  | .cls => Sys2Proof.Machine.execCls s
  | .ret => Sys2Proof.Machine.execRet s
  | .jump nnn => Sys2Proof.Machine.execJump nnn s
  | .call nnn => Sys2Proof.Machine.execCall nnn s
  | .skipEqConst x kk => Sys2Proof.Machine.execSkipEqConst x kk s
  | .skipNeqConst x kk => Sys2Proof.Machine.execSkipNeqConst x kk s
  | .skipEqReg x y => Sys2Proof.Machine.execSkipEqReg x y s
  | .loadConst x kk => Sys2Proof.Machine.execLoadConst x kk s
  | .addConst x kk => Sys2Proof.Machine.execAddConst x kk s
  | .move x y => Sys2Proof.Machine.execMove x y s
  | .or x y => Sys2Proof.Machine.execOr x y s
  | .and x y => Sys2Proof.Machine.execAnd x y s
  | .xor x y => Sys2Proof.Machine.execXor x y s
  | .add x y => Sys2Proof.Machine.execAdd x y s
  | .sub x y => Sys2Proof.Machine.execSub x y s
  | .shiftRight x => Sys2Proof.Machine.execShiftRight x s
  | .subN x y => Sys2Proof.Machine.execSubN x y s
  | .shiftLeft x => Sys2Proof.Machine.execShiftLeft x s
  | .skipNeqReg x y => Sys2Proof.Machine.execSkipNeqReg x y s
  | .setIndex nnn => Sys2Proof.Machine.execSetIndex nnn s
  | .jumpOffset nnn => Sys2Proof.Machine.execJumpOffset nnn s
  | .random x kk => Sys2Proof.Machine.execRandom x kk s
  | .draw x y n => Sys2Proof.Machine.execDraw x y n s
  | .skipKey x => Sys2Proof.Machine.execSkipKey x s
  | .skipNotKey x => Sys2Proof.Machine.execSkipNotKey x s
  | .loadDelay x => Sys2Proof.Machine.execLoadDelay x s
  | .waitKeyPress x => Sys2Proof.Machine.execWaitKeyPress x s
  | .setDelay x => Sys2Proof.Machine.execSetDelay x s
  | .setSound x => Sys2Proof.Machine.execSetSound x s
  | .addIndex x => Sys2Proof.Machine.execAddIndex x s
  | .spriteAddr x => Sys2Proof.Machine.execSpriteAddr x s
  | .bcd x => Sys2Proof.Machine.execBcd x s
  | .store x => Sys2Proof.Machine.execStore x s
  | .load x => Sys2Proof.Machine.execLoad x s

end Sys2Proof.Machine
end

