-- ==== Sys2Proof/WellFormed.lean ====
section
/-! DEFINITION. Well-formed operands: every operand fits the field the instruction word has for it (spec/30_encoding.md R81,
R82). An operand is checked as the plain number an assembler would be given; an `Instr` carries numbers that fit already, which
is what `Instr.wellFormed` says and Laws/WellFormed.lean proves of every instruction. -/

namespace Sys2Proof

/-- One operand as a plain number. -/
inductive Operand where
  /-- a register number for the field `x` or `y` -/
  | reg (value : Nat)
  /-- a row count for the field `n` -/
  | rows (value : Nat)
  /-- a constant for the field `kk` -/
  | const (value : Nat)
  /-- an address for the field `nnn` -/
  | addr (value : Nat)
deriving DecidableEq, Repr

/-- The operand fits its field: 4 bits for `x`, `y`, `n`, 8 for `kk`, 12 for `nnn` (R81). Nothing else is asked of an
operand: "every value is a legal register" (R82), `n` = 0 is legal (R92), every address is legal (R87). -/
def Operand.wellFormed : Operand → Bool
  | .reg v => v < 16
  | .rows v => v < 16
  | .const v => v < 256
  | .addr v => v < 4096

/-- The operands an instruction carries, in the order of R84. -/
def Instr.operands : Instr → List Operand
  | .cls => []
  | .ret => []
  | .jump nnn => [.addr nnn.toNat]
  | .call nnn => [.addr nnn.toNat]
  | .skipEqConst x kk => [.reg x, .const kk.toNat]
  | .skipNeqConst x kk => [.reg x, .const kk.toNat]
  | .skipEqReg x y => [.reg x, .reg y]
  | .loadConst x kk => [.reg x, .const kk.toNat]
  | .addConst x kk => [.reg x, .const kk.toNat]
  | .move x y => [.reg x, .reg y]
  | .or x y => [.reg x, .reg y]
  | .and x y => [.reg x, .reg y]
  | .xor x y => [.reg x, .reg y]
  | .add x y => [.reg x, .reg y]
  | .sub x y => [.reg x, .reg y]
  | .shiftRight x => [.reg x]
  | .subN x y => [.reg x, .reg y]
  | .shiftLeft x => [.reg x]
  | .skipNeqReg x y => [.reg x, .reg y]
  | .setIndex nnn => [.addr nnn.toNat]
  | .jumpOffset nnn => [.addr nnn.toNat]
  | .random x kk => [.reg x, .const kk.toNat]
  | .draw x y n => [.reg x, .reg y, .rows n]
  | .skipKey x => [.reg x]
  | .skipNotKey x => [.reg x]
  | .loadDelay x => [.reg x]
  | .waitKeyPress x => [.reg x]
  | .setDelay x => [.reg x]
  | .setSound x => [.reg x]
  | .addIndex x => [.reg x]
  | .spriteAddr x => [.reg x]
  | .bcd x => [.reg x]
  | .store x => [.reg x]
  | .load x => [.reg x]

/-- Every operand fits its field. -/
def Instr.wellFormed (i : Instr) : Bool := i.operands.all Operand.wellFormed

end Sys2Proof
end

