-- ==== Sys2Proof/Decode.lean ====
section
/-! DEFINITION. The decoder (spec/30_encoding.md R83, R85), total over the 65536 words and rejecting by the name of the family;
the encoder (R95, R101); and the opcode map as a table of rows (R95), a second reading of the same encoding. The opcode
digits the source does not give are the customary ones: log 9. -/

namespace Sys2Proof

/-! ## The fields of a word (R81) -/

/-- `f` = w[15:12], the family -/
def fieldF (w : Word) : BitVec 4 := w.extractLsb' 12 4

/-- `x` = w[11:8] -/
def fieldX (w : Word) : RegNum := (w.extractLsb' 8 4).toFin

/-- `y` = w[7:4] -/
def fieldY (w : Word) : RegNum := (w.extractLsb' 4 4).toFin

/-- `n` = w[3:0] -/
def fieldN (w : Word) : Fin 16 := (w.extractLsb' 0 4).toFin

/-- `kk` = w[7:0] -/
def fieldKK (w : Word) : Byte := w.extractLsb' 0 8

/-- `nnn` = w[11:0] -/
def fieldNNN (w : Word) : Addr12 := w.extractLsb' 0 12

/-! ## The decoder -/

/-- Why a word is no instruction: the family whose members it misses (R97). -/
inductive Reject where
  /-- `0x0000` to `0x0FFF` but for `0x00E0`, `0x00EE` (R86) -/
  | family0
  /-- `5xyN`, `N` not 0 (R89) -/
  | family5
  /-- `8xyN`, `N` in 8, 9, A, B, C, D, F (R90) -/
  | family8
  /-- `ExKK`, `KK` not 9E, A1 (R93) -/
  | familyE
  /-- `FxKK`, `KK` none of the nine (R94) -/
  | familyF
deriving DecidableEq, Repr

/-- Family 0: the whole word must match (R86). -/
def decodeFamily0 (w : Word) : Except Reject Instr :=
  if w = 0x00E0#16 then .ok .cls
  else if w = 0x00EE#16 then .ok .ret
  else .error .family0

/-- Family 5: the low nibble must be 0 (R89). -/
def decodeFamily5 (w : Word) : Except Reject Instr :=
  if (fieldN w).val = 0 then .ok (.skipEqReg (fieldX w) (fieldY w)) else .error .family5

/-- Family 8: the low nibble selects; the shifts ignore `y` (R90). -/
def decodeFamily8 (w : Word) : Except Reject Instr :=
  match (fieldN w).val with
  | 0x0 => .ok (.move (fieldX w) (fieldY w))
  | 0x1 => .ok (.or (fieldX w) (fieldY w))
  | 0x2 => .ok (.and (fieldX w) (fieldY w))
  | 0x3 => .ok (.xor (fieldX w) (fieldY w))
  | 0x4 => .ok (.add (fieldX w) (fieldY w))
  | 0x5 => .ok (.sub (fieldX w) (fieldY w))
  | 0x6 => .ok (.shiftRight (fieldX w))
  | 0x7 => .ok (.subN (fieldX w) (fieldY w))
  | 0xE => .ok (.shiftLeft (fieldX w))
  | _ => .error .family8

/-- Family E: the whole lower byte selects (R93). -/
def decodeFamilyE (w : Word) : Except Reject Instr :=
  match (fieldKK w).toNat with
  | 0x9E => .ok (.skipKey (fieldX w))
  | 0xA1 => .ok (.skipNotKey (fieldX w))
  | _ => .error .familyE

/-- Family F: the whole lower byte selects (R94). -/
def decodeFamilyF (w : Word) : Except Reject Instr :=
  match (fieldKK w).toNat with
  | 0x07 => .ok (.loadDelay (fieldX w))
  | 0x0A => .ok (.waitKeyPress (fieldX w))
  | 0x15 => .ok (.setDelay (fieldX w))
  | 0x18 => .ok (.setSound (fieldX w))
  | 0x1E => .ok (.addIndex (fieldX w))
  | 0x29 => .ok (.spriteAddr (fieldX w))
  | 0x33 => .ok (.bcd (fieldX w))
  | 0x55 => .ok (.store (fieldX w))
  | 0x65 => .ok (.load (fieldX w))
  | _ => .error .familyF

/-- `decode(w)` (R85). The last arm is family F, the one value of `f` left. -/
def decode (w : Word) : Except Reject Instr :=
  match (fieldF w).toNat with
  | 0x0 => decodeFamily0 w
  | 0x1 => .ok (.jump (fieldNNN w))
  | 0x2 => .ok (.call (fieldNNN w))
  | 0x3 => .ok (.skipEqConst (fieldX w) (fieldKK w))
  | 0x4 => .ok (.skipNeqConst (fieldX w) (fieldKK w))
  | 0x5 => decodeFamily5 w
  | 0x6 => .ok (.loadConst (fieldX w) (fieldKK w))
  | 0x7 => .ok (.addConst (fieldX w) (fieldKK w))
  | 0x8 => decodeFamily8 w
  | 0x9 => .ok (.skipNeqReg (fieldX w) (fieldY w))
  | 0xA => .ok (.setIndex (fieldNNN w))
  | 0xB => .ok (.jumpOffset (fieldNNN w))
  | 0xC => .ok (.random (fieldX w) (fieldKK w))
  | 0xD => .ok (.draw (fieldX w) (fieldY w) (fieldN w))
  | 0xE => decodeFamilyE w
  | _ => decodeFamilyF w

/-- The word of two bytes, the upper byte first (R83; spec/20_memory.md R58). -/
def wordOfBytes (upper lower : Byte) : Word := upper ++ lower

/-- The contract `decode(upper_byte, lower_byte)` (R83). -/
def decodeBytes (upper lower : Byte) : Except Reject Instr := decode (wordOfBytes upper lower)

/-! ## The encoder (R95, R101): an ignored nibble is encoded as 0 -/

/-- A register number or row count as the nibble that spells it. -/
def nibble (r : Fin 16) : BitVec 4 := BitVec.ofFin r

/-- `f ++ nnn` -/
def wordNNN (f : BitVec 4) (nnn : Addr12) : Word := f ++ nnn

/-- `f ++ x ++ kk` -/
def wordXKK (f : BitVec 4) (x : RegNum) (kk : Byte) : Word := f ++ nibble x ++ kk

/-- `f ++ x ++ y ++ n` -/
def wordXYN (f : BitVec 4) (x y : RegNum) (n : BitVec 4) : Word := f ++ nibble x ++ nibble y ++ n

/-- The word of an instruction. -/
def encode : Instr → Word
  | .cls => 0x00E0#16
  | .ret => 0x00EE#16
  | .jump nnn => wordNNN 0x1#4 nnn
  | .call nnn => wordNNN 0x2#4 nnn
  | .skipEqConst x kk => wordXKK 0x3#4 x kk
  | .skipNeqConst x kk => wordXKK 0x4#4 x kk
  | .skipEqReg x y => wordXYN 0x5#4 x y 0x0#4
  | .loadConst x kk => wordXKK 0x6#4 x kk
  | .addConst x kk => wordXKK 0x7#4 x kk
  | .move x y => wordXYN 0x8#4 x y 0x0#4
  | .or x y => wordXYN 0x8#4 x y 0x1#4
  | .and x y => wordXYN 0x8#4 x y 0x2#4
  | .xor x y => wordXYN 0x8#4 x y 0x3#4
  | .add x y => wordXYN 0x8#4 x y 0x4#4
  | .sub x y => wordXYN 0x8#4 x y 0x5#4
  | .shiftRight x => wordXYN 0x8#4 x 0 0x6#4
  | .subN x y => wordXYN 0x8#4 x y 0x7#4
  | .shiftLeft x => wordXYN 0x8#4 x 0 0xE#4
  | .skipNeqReg x y => wordXYN 0x9#4 x y 0x0#4
  | .setIndex nnn => wordNNN 0xA#4 nnn
  | .jumpOffset nnn => wordNNN 0xB#4 nnn
  | .random x kk => wordXKK 0xC#4 x kk
  | .draw x y n => wordXYN 0xD#4 x y (nibble n)
  | .skipKey x => wordXKK 0xE#4 x 0x9E#8
  | .skipNotKey x => wordXKK 0xE#4 x 0xA1#8
  | .loadDelay x => wordXKK 0xF#4 x 0x07#8
  | .waitKeyPress x => wordXKK 0xF#4 x 0x0A#8
  | .setDelay x => wordXKK 0xF#4 x 0x15#8
  | .setSound x => wordXKK 0xF#4 x 0x18#8
  | .addIndex x => wordXKK 0xF#4 x 0x1E#8
  | .spriteAddr x => wordXKK 0xF#4 x 0x29#8
  | .bcd x => wordXKK 0xF#4 x 0x33#8
  | .store x => wordXKK 0xF#4 x 0x55#8
  | .load x => wordXKK 0xF#4 x 0x65#8

/-! ## The opcode map (R95) -/

/-- One row of the map: a word `w` selects the row when `w & mask = value`. -/
structure OpcodeRow where
  mnemonic : String
  mask : Word
  value : Word
deriving DecidableEq, Repr

/-- The word selects the row. -/
def OpcodeRow.selects (r : OpcodeRow) (w : Word) : Bool := w &&& r.mask = r.value

/-- Rows of families 0 to 7. -/
def opcodeRowsLow : List OpcodeRow :=
  [⟨"Cls", 0xFFFF, 0x00E0⟩, ⟨"Ret", 0xFFFF, 0x00EE⟩, ⟨"Jump", 0xF000, 0x1000⟩, ⟨"Call", 0xF000, 0x2000⟩,
   ⟨"SkipEqConst", 0xF000, 0x3000⟩, ⟨"SkipNeqConst", 0xF000, 0x4000⟩, ⟨"SkipEqReg", 0xF00F, 0x5000⟩,
   ⟨"LoadConst", 0xF000, 0x6000⟩, ⟨"AddConst", 0xF000, 0x7000⟩]

/-- Rows of family 8. -/
def opcodeRowsAlu : List OpcodeRow :=
  [⟨"Move", 0xF00F, 0x8000⟩, ⟨"Or", 0xF00F, 0x8001⟩, ⟨"And", 0xF00F, 0x8002⟩, ⟨"Xor", 0xF00F, 0x8003⟩,
   ⟨"Add", 0xF00F, 0x8004⟩, ⟨"Sub", 0xF00F, 0x8005⟩, ⟨"ShiftRight", 0xF00F, 0x8006⟩, ⟨"SubN", 0xF00F, 0x8007⟩,
   ⟨"ShiftLeft", 0xF00F, 0x800E⟩]

/-- Rows of families 9 to F. -/
def opcodeRowsHigh : List OpcodeRow :=
  [⟨"SkipNeqReg", 0xF000, 0x9000⟩, ⟨"SetIndex", 0xF000, 0xA000⟩, ⟨"JumpOffset", 0xF000, 0xB000⟩,
   ⟨"Random", 0xF000, 0xC000⟩, ⟨"Draw", 0xF000, 0xD000⟩, ⟨"SkipKey", 0xF0FF, 0xE09E⟩,
   ⟨"SkipNotKey", 0xF0FF, 0xE0A1⟩, ⟨"LoadDelay", 0xF0FF, 0xF007⟩, ⟨"WaitKeyPress", 0xF0FF, 0xF00A⟩,
   ⟨"SetDelay", 0xF0FF, 0xF015⟩, ⟨"SetSound", 0xF0FF, 0xF018⟩, ⟨"AddIndex", 0xF0FF, 0xF01E⟩,
   ⟨"SpriteAddr", 0xF0FF, 0xF029⟩, ⟨"Bcd", 0xF0FF, 0xF033⟩, ⟨"Store", 0xF0FF, 0xF055⟩, ⟨"Load", 0xF0FF, 0xF065⟩]

/-- The 34 rows, in the map's order. -/
def opcodeMap : List OpcodeRow := opcodeRowsLow ++ opcodeRowsAlu ++ opcodeRowsHigh

/-- The tag of an instruction as the table spells it. -/
def Instr.mnemonic : Instr → String
  | .cls => "Cls"
  | .ret => "Ret"
  | .jump _ => "Jump"
  | .call _ => "Call"
  | .skipEqConst _ _ => "SkipEqConst"
  | .skipNeqConst _ _ => "SkipNeqConst"
  | .skipEqReg _ _ => "SkipEqReg"
  | .loadConst _ _ => "LoadConst"
  | .addConst _ _ => "AddConst"
  | .move _ _ => "Move"
  | .or _ _ => "Or"
  | .and _ _ => "And"
  | .xor _ _ => "Xor"
  | .add _ _ => "Add"
  | .sub _ _ => "Sub"
  | .shiftRight _ => "ShiftRight"
  | .subN _ _ => "SubN"
  | .shiftLeft _ => "ShiftLeft"
  | .skipNeqReg _ _ => "SkipNeqReg"
  | .setIndex _ => "SetIndex"
  | .jumpOffset _ => "JumpOffset"
  | .random _ _ => "Random"
  | .draw _ _ _ => "Draw"
  | .skipKey _ => "SkipKey"
  | .skipNotKey _ => "SkipNotKey"
  | .loadDelay _ => "LoadDelay"
  | .waitKeyPress _ => "WaitKeyPress"
  | .setDelay _ => "SetDelay"
  | .setSound _ => "SetSound"
  | .addIndex _ => "AddIndex"
  | .spriteAddr _ => "SpriteAddr"
  | .bcd _ => "Bcd"
  | .store _ => "Store"
  | .load _ => "Load"

/-- The nibbles of a word that its row ignores (R98), as a mask: `n` of family 9, `y` of the two shifts. -/
def ignoredMask : Instr → Word
  | .skipNeqReg _ _ => 0x000F#16
  | .shiftRight _ => 0x00F0#16
  | .shiftLeft _ => 0x00F0#16
  | .cls | .ret | .jump _ | .call _ | .skipEqConst _ _ | .skipNeqConst _ _ | .skipEqReg _ _
  | .loadConst _ _ | .addConst _ _ | .move _ _ | .or _ _ | .and _ _ | .xor _ _ | .add _ _ | .sub _ _
  | .subN _ _ | .setIndex _ | .jumpOffset _ | .random _ _ | .draw _ _ _ | .skipKey _ | .skipNotKey _
  | .loadDelay _ | .waitKeyPress _ | .setDelay _ | .setSound _ | .addIndex _ | .spriteAddr _ | .bcd _
  | .store _ | .load _ => 0x0000#16

/-! ## The host's reading of one table word -/

/-- The instruction the decoder reads from a word whose bits are numbered as spec/opcode_table.json numbers them: every row is
one 16-bit word, bits above `nbits` are 0. -/
def decodeTableWord (nbits w : Nat) : Option Instr :=
  match decode (BitVec.ofNat 16 (w % 2 ^ nbits)) with
  | .ok i => some i
  | .error _ => none

end Sys2Proof
end

