-- ==== Sys2Proof/Machine/Fetch.lean ====
section
/-! DEFINITION. Fetch and decode, the first two stages of a step (spec/20_memory.md R57, R58; spec/40_flow.md R120). -/

namespace Sys2Proof.Machine

/-- The word at `PC`: the byte at the lower address is the upper byte (R58). -/
def State.fetchedWord (s : State) : Word := wordOfBytes (s.mem.read s.pc.toNat) (s.mem.read (s.pc.toNat + 1))

/-- The fetch stage: fails from 4094 on (R57; conflict C3). -/
def State.fetch (s : State) : Except Fault Word :=
  if Config.fetchLimit ≤ s.pc.toNat then .error (.outOfBounds s.pc s.pc.toNat) else .ok s.fetchedWord

/-- Fetch, then decode: the first stage to fail decides (spec/60_exceptions.md R247). -/
def State.fetchDecode (s : State) : Except Fault Instr :=
  match s.fetch with
  | .error f => .error f
  | .ok w =>
    match decode w with
    | .error _ => .error (.decodeError s.pc w)
    | .ok i => .ok i

/-- The state with a `PC` a fetch accepts: the one it has, or else the program's entry point. -/
def State.fetchable (s : State) : State :=
  if Config.fetchLimit ≤ s.pc.toNat then s.setPc (BitVec.ofNat 16 Config.progBase) else s

/-- The state with a word stored at `PC`, upper byte first. -/
def State.placeWord (s : State) (w : Word) : State :=
  { s with mem := s.mem.writeList s.pc.toNat [w.extractLsb' 8 8, w.extractLsb' 0 8] }

end Sys2Proof.Machine
end

