-- ==== Sys2Proof/Machine/Step.lean ====
section
/-! DEFINITION. One step: fetch, decode, execute (spec/40_flow.md R120). -/

namespace Sys2Proof.Machine

/-- The Execution Engine's one operation. Each meaning commits `PC` itself, so nothing stands around `exec`. -/
def step (s : State) : Host.Outcome State Fault Refusal :=
  match s.fetchDecode with
  | .error f => raise f
  | .ok i => exec i s

/-- `s` with the instruction word `w` stored where `step` fetches, log 18: at `PC`, or at 512 with `PC` moved there when a fetch at
`PC` would fail. -/
def State.withFetchWord (s : State) (nbits w : Nat) : State :=
  s.fetchable.placeWord (BitVec.ofNat 16 (w % 2 ^ nbits))

end Sys2Proof.Machine
end

