-- ==== Sys2Proof/Machine/Interface.lean ====
section
/-! DEFINITION. The external interface (spec/60_exceptions.md R250): what the outside world does to the machine between steps, a
step's outputs, and the whole machine as a state machine whose transitions are these operations (R251). Log 5. -/

namespace Sys2Proof.Machine

/-! ## A step's outputs -/

/-- The result of a step (spec/40_flow.md R122). -/
inductive StepResult where
  /-- the instruction completed; `PC` is now `a` -/
  | nextPc (a : Word)
  /-- `WaitKeyPress` found no key down -/
  | blocked
  /-- the step raised -/
  | error (f : Fault)
deriving DecidableEq, Repr

/-- The result and the redraw bit (R121, R122). -/
structure StepOutput where
  result : StepResult
  redraw : Bool
deriving DecidableEq, Repr

/-- The instructions whose completion sets the redraw output (R121). -/
def redraws : Instr → Bool
  | .cls => true
  | .draw _ _ _ => true
  | .ret | .jump _ | .call _ | .skipEqConst _ _ | .skipNeqConst _ _ | .skipEqReg _ _ | .loadConst _ _
  | .addConst _ _ | .move _ _ | .or _ _ | .and _ _ | .xor _ _ | .add _ _ | .sub _ _ | .shiftRight _
  | .subN _ _ | .shiftLeft _ | .skipNeqReg _ _ | .setIndex _ | .jumpOffset _ | .random _ _ | .skipKey _
  | .skipNotKey _ | .loadDelay _ | .waitKeyPress _ | .setDelay _ | .setSound _ | .addIndex _
  | .spriteAddr _ | .bcd _ | .store _ | .load _ => false

/-- The instruction returns `Blocked` in this state (spec/44_keypad_timers.md R224). -/
def State.blocks (s : State) : Instr → Bool
  | .waitKeyPress _ => s.firstPressed.isNone
  | .cls | .draw _ _ _ | .ret | .jump _ | .call _ | .skipEqConst _ _ | .skipNeqConst _ _ | .skipEqReg _ _
  | .loadConst _ _ | .addConst _ _ | .move _ _ | .or _ _ | .and _ _ | .xor _ _ | .add _ _ | .sub _ _
  | .shiftRight _ | .subN _ _ | .shiftLeft _ | .skipNeqReg _ _ | .setIndex _ | .jumpOffset _ | .random _ _
  | .skipKey _ | .skipNotKey _ | .loadDelay _ | .setDelay _ | .setSound _ | .addIndex _ | .spriteAddr _
  | .bcd _ | .store _ | .load _ => false

/-- The output of executing an instruction; `none` where the model refuses it, which it never does. -/
def State.execOutput (s : State) (i : Instr) : Option StepOutput :=
  match exec i s with
  | .next t => some (if s.blocks i then ⟨.blocked, false⟩ else ⟨.nextPc t.pc, redraws i⟩)
  | .fault f => some ⟨.error f, false⟩
  | .refused _ => none

/-- What `step` returns to its caller beside the new state. -/
def stepOutput (s : State) : Option StepOutput :=
  match s.fetchDecode with
  | .error f => some ⟨.error f, false⟩
  | .ok i => s.execOutput i

/-! ## The other operations -/

/-- `tick_timers()` (spec/44_keypad_timers.md R228): each timer on its own, down to 0 and no further. -/
def State.tickTimers (s : State) : State :=
  { s with dt := if s.dt = 0 then 0 else s.dt - 1, st := if s.st = 0 then 0 else s.st - 1 }

/-- `t` ticks. -/
def State.tickTimes : Nat → State → State
  | 0, s => s
  | t + 1, s => State.tickTimes t s.tickTimers

/-- `key_set(key, down)` (spec/60_exceptions.md R254). -/
def State.keySet (s : State) (k : KeyNum) (down : Bool) : State := { s with key := s.key.set k down }

/-- `load(bytes)` (spec/70_reset_and_hazards.md R284): `none` when refused, and then no byte is written. -/
def State.load (s : State) (bytes : List Byte) : Option State :=
  if Config.maxProgLen < bytes.length then none
  else some { s with mem := s.mem.writeList Config.progBase bytes }

/-- `display_read()` (spec/60_exceptions.md R256): 2048 bits, row-major. -/
def State.displayRead (s : State) : List Bool := s.pix.toList.flatMap Vector.toList

/-! ## The machine with its environment -/

/-- The operations of R250. -/
inductive Operation where
  | reset
  | load (bytes : List Byte)
  | step (rand : Byte)
  | tickTimers
  | keySet (key : KeyNum) (down : Bool)
  | displayRead
  | decode (upper lower : Byte)
deriving DecidableEq, Repr

/-- What an operation returns. -/
inductive Reply where
  /-- the operation has no output -/
  | done
  /-- `load`: accepted or refused -/
  | loaded (accepted : Bool)
  /-- `step`: its result and redraw bit -/
  | stepped (out : Option StepOutput)
  /-- `display_read` -/
  | plane (bits : List Bool)
  /-- `decode`: an instruction, or `none` for a `DecodeError` -/
  | decoded (i : Option Instr)
deriving DecidableEq, Repr

/-- The state with `b` on the input `rand`. -/
def State.withRand (s : State) (b : Byte) : State := { s with rand := b :: s.rand }

/-- `step(rand)`: the byte is an input of this one step, drawn or not (spec/00_scope.md R7); an error changes no state
(R246). -/
def State.afterStep (s : State) (b : Byte) : State :=
  match Machine.step (s.withRand b) with
  | .next t => { t with rand := s.rand }
  | .fault _ => s
  | .refused _ => s

/-- One operation: the state after it and what it returns. -/
def transition (s : State) : Operation → State × Reply
  | .reset => (State.reset, .done)
  | .load bytes =>
    match s.load bytes with
    | some t => (t, .loaded true)
    | none => (s, .loaded false)
  | .step b => (s.afterStep b, .stepped (stepOutput (s.withRand b)))
  | .tickTimers => (s.tickTimers, .done)
  | .keySet k down => (s.keySet k down, .done)
  | .displayRead => (s, .plane s.displayRead)
  | .decode upper lower => (s, .decoded (decodeBytes upper lower).toOption)

/-- The state after a sequence of operations, in the order the host chose (R251). -/
def runOps (s : State) (ops : List Operation) : State := ops.foldl (fun t op => (transition t op).1) s

end Sys2Proof.Machine
end

