-- ==== Sys2Proof/Safety.lean ====
section
/-! DEFINITION. The terms claims use: what a step keeps, the invariant of good states, reachable states, and the spec's tables that
speak of all instructions at once (spec/10_state.md R23, spec/41_alu.md R151, spec/30_encoding.md R97). -/

namespace Sys2Proof.Machine

/-! ## Frames -/

/-- The parts of the state a frame speaks of. -/
inductive Part where
  | regs | i | pc | stack | sp | dt | st | mem | pix | key | rand | draws
deriving DecidableEq, Repr

/-- The part is the same in both states; memory is compared by reading every byte. -/
def Part.same : Part → State → State → Prop
  | .regs, s, t => ∀ r, t.reg r = s.reg r
  | .i, s, t => t.i = s.i
  | .pc, s, t => t.pc = s.pc
  | .stack, s, t => t.stack = s.stack
  | .sp, s, t => t.sp = s.sp
  | .dt, s, t => t.dt = s.dt
  | .st, s, t => t.st = s.st
  | .mem, s, t => ∀ a, t.mem.read a = s.mem.read a
  | .pix, s, t => t.pix = s.pix
  | .key, s, t => t.key = s.key
  | .rand, s, t => t.rand = s.rand
  | .draws, s, t => t.draws = s.draws

/-- Every part not named is the same in both states. -/
def KeptBut (changed : List Part) (s t : State) : Prop := ∀ p, p ∉ changed → p.same s t

/-- Every register not named is the same in both states. -/
def RegsKeptBut (changed : List RegNum) (s t : State) : Prop := ∀ r, r ∉ changed → t.reg r = s.reg r

/-- Every byte outside the `k` bytes from `base` reads the same in both states. -/
def BytesKeptOutside (base k : Nat) (s t : State) : Prop :=
  ∀ a, a < base ∨ base + k ≤ a → t.mem.read a = s.mem.read a

/-! ## Good states -/

/-- What every step keeps: memory in canonical form, `PC` at most 4350 (spec/40_flow.md R124), and every return address in use
at most 4095 (R124, R127). -/
structure State.Inv (s : State) : Prop where
  memory : s.mem.wf = true
  pcRange : s.pc.toNat ≤ 4350
  returns : ∀ k : Fin 16, k.val < s.sp.val → (s.stack[k]).toNat ≤ 4095

/-- A state some sequence of the interface's operations leads to from reset (spec/60_exceptions.md R251). -/
def Reachable (s : State) : Prop := ∃ ops, runOps State.reset ops = s

/-- A safe run: `k` steps none of which raises. -/
def SafeRun : Nat → State → Prop
  | 0, _ => True
  | k + 1, s => ∃ t, step s = .next t ∧ SafeRun k t

/-! ## Illegal words (spec/30_encoding.md R97) -/

/-- The list of R97, by the numbers the nibbles and the lower byte spell. -/
def IllegalWord (w : Nat) : Prop :=
  (w / 4096 = 0x0 ∧ w ≠ 0x00E0 ∧ w ≠ 0x00EE) ∨
  (w / 4096 = 0x5 ∧ w % 16 ≠ 0) ∨
  (w / 4096 = 0x8 ∧ w % 16 ∈ [0x8, 0x9, 0xA, 0xB, 0xC, 0xD, 0xF]) ∨
  (w / 4096 = 0xE ∧ w % 256 ∉ [0x9E, 0xA1]) ∨
  (w / 4096 = 0xF ∧ w % 256 ∉ [0x07, 0x0A, 0x15, 0x18, 0x1E, 0x29, 0x33, 0x55, 0x65])

/-! ## Register use (spec/10_state.md R23) -/

/-- The registers an instruction reads. -/
def regReads : Instr → List RegNum
  | .skipEqConst x _ | .skipNeqConst x _ | .addConst x _ | .shiftRight x | .shiftLeft x | .skipKey x
  | .skipNotKey x | .setDelay x | .setSound x | .addIndex x | .spriteAddr x | .bcd x => [x]
  | .skipEqReg x y | .skipNeqReg x y | .or x y | .and x y | .xor x y | .add x y | .sub x y | .subN x y
  | .draw x y _ => [x, y]
  | .move _ y => [y]
  | .jumpOffset _ => [0]
  | .store x => (List.finRange 16).filter (· ≤ x)
  | .cls | .ret | .jump _ | .call _ | .loadConst _ _ | .setIndex _ | .random _ _ | .loadDelay _
  | .waitKeyPress _ | .load _ => []

/-- The registers an instruction writes; `WaitKeyPress` only when a key is down. -/
def State.regWrites (s : State) : Instr → List RegNum
  | .loadConst x _ | .addConst x _ | .move x _ | .or x _ | .and x _ | .xor x _ | .random x _ | .loadDelay x => [x]
  | .add x _ | .sub x _ | .subN x _ | .shiftRight x | .shiftLeft x => [x, vf]
  | .draw _ _ _ => [vf]
  | .waitKeyPress x => if s.firstPressed.isSome then [x] else []
  | .load x => (List.finRange 16).filter (· ≤ x)
  | .cls | .ret | .jump _ | .call _ | .skipEqConst _ _ | .skipNeqConst _ _ | .skipEqReg _ _ | .skipNeqReg _ _
  | .setIndex _ | .jumpOffset _ | .skipKey _ | .skipNotKey _ | .setDelay _ | .setSound _ | .addIndex _
  | .spriteAddr _ | .bcd _ | .store _ => []

/-! ## The flag register (spec/41_alu.md R151) -/

/-- 1 when the condition holds, else 0. -/
def IsFlag (b : Byte) (condition : Prop) : Prop := (condition → b = 1) ∧ (¬condition → b = 0)

/-- What R151 says `VF` holds after the instruction took `s` to `t`. -/
def FlagRule (i : Instr) (s t : State) : Prop :=
  match i with
  | .add x y => IsFlag (t.reg vf) (255 < (s.reg x).toNat + (s.reg y).toNat)
  | .sub x y => IsFlag (t.reg vf) ((s.reg y).toNat ≤ (s.reg x).toNat)
  | .subN x y => IsFlag (t.reg vf) ((s.reg x).toNat ≤ (s.reg y).toNat)
  | .shiftRight x => IsFlag (t.reg vf) ((s.reg x).toNat % 2 = 1)
  | .shiftLeft x => IsFlag (t.reg vf) (128 ≤ (s.reg x).toNat)
  | .draw _ _ _ => IsFlag (t.reg vf) (∃ row col, s.pix.pixel row col = true ∧ t.pix.pixel row col = false)
  | .loadConst x _ | .addConst x _ | .move x _ | .or x _ | .and x _ | .xor x _ | .random x _ | .loadDelay x
  | .waitKeyPress x | .load x => x ≠ vf → t.reg vf = s.reg vf
  | .cls | .ret | .jump _ | .call _ | .skipEqConst _ _ | .skipNeqConst _ _ | .skipEqReg _ _ | .skipNeqReg _ _
  | .setIndex _ | .jumpOffset _ | .skipKey _ | .skipNotKey _ | .setDelay _ | .setSound _ | .addIndex _
  | .spriteAddr _ | .bcd _ | .store _ => t.reg vf = s.reg vf

/-! ## Sprites (spec/43_display.md R203, R204) -/

/-- A 1 bit of the `n`-row sprite at `I`, drawn from (`V[x]`, `V[y]`), lands on this pixel. -/
def SpriteCovers (s : State) (x y : RegNum) (n : Fin 16) (row : Fin 32) (col : Fin 64) : Prop :=
  ∃ r c : Nat, r < n.val ∧ c < 8 ∧ (s.mem.read (s.i.toNat + r)).getLsbD (7 - c) = true ∧
    row.val = ((s.reg y).toNat + r) % 32 ∧ col.val = ((s.reg x).toNat + c) % 64

/-- Every byte the instruction accesses through `I` has an address: the range is empty or ends at 4095 or below
(spec/20_memory.md R56). -/
def State.RangeOk (s : State) (k : Nat) : Prop := k = 0 ∨ s.i.toNat + k ≤ 4096

end Sys2Proof.Machine
end

