-- ==== Sys2Proof/Certificates/Slice0/Obligations.lean ====
section
/-! DEFINITION. The statements for the provers. -/

open Sys2Proof Sys2Proof.Machine

/-! ## Encoding -/

/-- spec/30_encoding.md R103: the source's five worked decodings. -/
def Obligations.WorkedDecodings : Prop :=
  decodeBytes 0x00 0xE0 = .ok .cls ∧ decodeBytes 0x00 0xEE = .ok .ret ∧
  decodeBytes 0x1A 0xBC = .ok (.jump 0xABC) ∧ decodeBytes 0x33 0xEE = .ok (.skipEqConst 3 0xEE) ∧
  ∃ e, decodeBytes 0x80 0xA9 = .error e

/-- Every instruction, with every operand the encoding admits, is what its word decodes to ("`encode` followed by `decode` is the
identity on instructions": spec/30_encoding.md R98, derived by the spec from R85). What `encode` writes in an ignored nibble is the
spec's decision D27 (R101, log 23). -/
def Obligations.DecodeUndoesEncode : Prop := ∀ i : Instr, decode (encode i) = .ok i

/-- Decoding loses nothing but the ignored nibbles, which encode as 0. -/
def Obligations.EncodeRestoresTheWordButIgnoredNibbles : Prop :=
  ∀ (w : Word) (i : Instr), decode w = .ok i → encode i = w &&& ~~~ignoredMask i

/-- The decode algorithm is the opcode map: a decoded word selects exactly one row, its own tag's; a rejected word selects none. -/
def Obligations.DecodeIsTheOpcodeMap : Prop :=
  ∀ w : Word,
    (∀ i, decode w = .ok i →
      ∃ r ∈ opcodeMap, r.mnemonic = i.mnemonic ∧ r.selects w = true ∧ ∀ r' ∈ opcodeMap, r'.selects w = true → r' = r) ∧
    (∀ e, decode w = .error e → ∀ r ∈ opcodeMap, r.selects w = false)

/-- A word is rejected exactly when it stands in the list of illegal words. -/
def Obligations.RejectedWordsAreTheIllegalWords : Prop :=
  ∀ w : Word, (∃ e, decode w = .error e) ↔ IllegalWord w.toNat

/-! ## The step -/

/-- A step runs the instruction the two bytes at `PC` decode to; nothing is added around it. That the step itself writes `PC` is the
spec's own reading (decision D3). -/
def Obligations.StepRunsTheDecodedInstruction : Prop :=
  ∀ (s : State) (i : Instr), s.pc.toNat < 4094 →
    decode (s.mem.read s.pc.toNat ++ s.mem.read (s.pc.toNat + 1)) = .ok i → step s = exec i s

/-- At 4094 or above the fetch, and so the step, fails with `addr` = `PC`; below it, at an odd `PC` too, the word is
`MEM[PC] ++ MEM[PC+1]` (spec/20_memory.md R57). The step raises `DecodeError` exactly when that word is illegal, with the word and `PC`
(spec/60_exceptions.md R242, spec/40_flow.md R120). Not the source's own: the limit 4094 (conflict C3, log 2), the payload `addr`
(decision D12, log 4), the odd `PC` (decision D23, log 22). -/
def Obligations.FetchAndDecodeErrors : Prop :=
  ∀ s : State,
    (4094 ≤ s.pc.toNat → s.fetch = .error (.outOfBounds s.pc s.pc.toNat) ∧
      step s = .fault (.outOfBounds s.pc s.pc.toNat)) ∧
    (s.pc.toNat < 4094 → s.fetch = .ok (s.mem.read s.pc.toNat ++ s.mem.read (s.pc.toNat + 1))) ∧
    (∀ pc w, step s = .fault (.decodeError pc w) ↔
      s.pc.toNat < 4094 ∧ pc = s.pc ∧ w = s.mem.read s.pc.toNat ++ s.mem.read (s.pc.toNat + 1) ∧
        ∃ e, decode w = .error e)

/-- Every step ends in a next state or in an error whose `pc` is the `PC` of the step: nothing is refused. The payload `pc` of the errors
other than `DecodeError` is the spec's decision D12 (log 4). -/
def Obligations.StepAnswersNextOrAnError : Prop :=
  ∀ s : State, (∃ t, step s = .next t) ∨ (∃ f, step s = .fault f ∧ f.pc = s.pc)

/-- The result a step returns. `NextPc` carries the new `PC`; `Blocked` comes from `WaitKeyPress` with no key
down, and then nothing changes; an error is returned as it is raised. -/
def Obligations.StepResults : Prop :=
  ∀ s : State,
    (∀ t, step s = .next t →
      ((∃ x, s.fetchDecode = .ok (.waitKeyPress x)) ∧ (∀ k, s.keyDown k = false) ∧ t = s ∧
          stepOutput s = some ⟨.blocked, false⟩) ∨
      (¬((∃ x, s.fetchDecode = .ok (.waitKeyPress x)) ∧ ∀ k, s.keyDown k = false) ∧
          ∃ redraw, stepOutput s = some ⟨.nextPc t.pc, redraw⟩)) ∧
    (∀ f, step s = .fault f → stepOutput s = some ⟨.error f, false⟩)

/-- The redraw output is 1 exactly when the step executed `Cls` or `Draw` to completion (decision D19 of the spec). -/
def Obligations.RedrawOutput : Prop :=
  ∀ (s : State) (out : StepOutput), stepOutput s = some out →
    (out.redraw = true ↔
      ∃ i t, s.fetchDecode = .ok i ∧ (i = .cls ∨ ∃ x y n, i = .draw x y n) ∧ step s = .next t)

/-! ## Control transfer -/

/-- spec/40_flow.md R126 -/
def Obligations.JumpGoesToItsAddress : Prop :=
  ∀ (s : State) (nnn : Addr12),
    ∃ t, exec (.jump nnn) s = .next t ∧ t.pc.toNat = nnn.toNat ∧ KeptBut [.pc] s t

/-- `JumpOffset` goes to `V[0] + nnn`, not reduced modulo 4096 (decision D24 of the spec). -/
def Obligations.JumpOffsetAddsRegisterZero : Prop :=
  ∀ (s : State) (nnn : Addr12),
    ∃ t, exec (.jumpOffset nnn) s = .next t ∧ t.pc.toNat = (s.reg 0).toNat + nnn.toNat ∧ KeptBut [.pc] s t

/-- `Call` pushes `PC + 2` and goes to `nnn` when the stack is not full, and raises `StackOverflow` when it is. `SP` counts the
entries in use (decision D4 of the spec, log 10); the payload `pc` is its decision D12 (log 4). -/
def Obligations.CallPushesTheReturnAddress : Prop :=
  ∀ (s : State) (nnn : Addr12),
    (s.sp.val < 16 → ∃ t, exec (.call nnn) s = .next t ∧ t.pc.toNat = nnn.toNat ∧ t.sp.val = s.sp.val + 1 ∧
      (∀ k : Fin 16, t.stack[k] = if k.val = s.sp.val then s.pc + 2 else s.stack[k]) ∧
      KeptBut [.pc, .sp, .stack] s t) ∧
    (s.sp.val = 16 → exec (.call nnn) s = .fault (.stackOverflow s.pc))

/-- `Ret` pops when the stack is not empty, and raises `StackUnderflow` when it is. `SP` counts the entries in use
(decision D4 of the spec, log 10); the payload `pc` is its decision D12 (log 4). -/
def Obligations.RetPopsTheReturnAddress : Prop :=
  ∀ s : State,
    (0 < s.sp.val → ∃ t, exec .ret s = .next t ∧ t.sp.val + 1 = s.sp.val ∧
      (∀ k : Fin 16, k.val = t.sp.val → t.pc = s.stack[k]) ∧ KeptBut [.pc, .sp] s t) ∧
    (s.sp.val = 0 → exec .ret s = .fault (.stackUnderflow s.pc))

/-- After a `Call`, a `Ret` with the stack as the `Call` left it goes to the instruction after the `Call` and restores `SP`. -/
def Obligations.RetUndoesCall : Prop :=
  ∀ (s t u : State) (nnn : Addr12), exec (.call nnn) s = .next t → u.sp = t.sp → u.stack = t.stack →
    ∃ w, exec .ret u = .next w ∧ w.pc = s.pc + 2 ∧ w.sp = s.sp

/-- spec/40_flow.md R128, R129 -/
def Obligations.SkipsAgainstAConstant : Prop :=
  ∀ (s : State) (x : RegNum) (kk : Byte),
    (∃ t, exec (.skipEqConst x kk) s = .next t ∧ KeptBut [.pc] s t ∧
      (s.reg x = kk → t.pc = s.pc + 4) ∧ (s.reg x ≠ kk → t.pc = s.pc + 2)) ∧
    (∃ t, exec (.skipNeqConst x kk) s = .next t ∧ KeptBut [.pc] s t ∧
      (s.reg x ≠ kk → t.pc = s.pc + 4) ∧ (s.reg x = kk → t.pc = s.pc + 2))

/-- spec/40_flow.md R130, R131 -/
def Obligations.SkipsBetweenRegisters : Prop :=
  ∀ (s : State) (x y : RegNum),
    (∃ t, exec (.skipEqReg x y) s = .next t ∧ KeptBut [.pc] s t ∧
      (s.reg x = s.reg y → t.pc = s.pc + 4) ∧ (s.reg x ≠ s.reg y → t.pc = s.pc + 2)) ∧
    (∃ t, exec (.skipNeqReg x y) s = .next t ∧ KeptBut [.pc] s t ∧
      (s.reg x ≠ s.reg y → t.pc = s.pc + 4) ∧ (s.reg x = s.reg y → t.pc = s.pc + 2))

/-! ## The ALU -/

/-- spec/41_alu.md R152, R153, R154: the result, no flag (`VF` changes only as the destination). -/
def Obligations.ConstantsAndCopy : Prop :=
  ∀ (s : State) (x y : RegNum) (kk : Byte),
    (∃ t, exec (.loadConst x kk) s = .next t ∧ t.reg x = kk ∧
      t.pc = s.pc + 2 ∧ RegsKeptBut [x] s t ∧ KeptBut [.pc, .regs] s t) ∧
    (∃ t, exec (.addConst x kk) s = .next t ∧ (t.reg x).toNat = ((s.reg x).toNat + kk.toNat) % 256 ∧
      t.pc = s.pc + 2 ∧ RegsKeptBut [x] s t ∧ KeptBut [.pc, .regs] s t) ∧
    (∃ t, exec (.move x y) s = .next t ∧ t.reg x = s.reg y ∧
      t.pc = s.pc + 2 ∧ RegsKeptBut [x] s t ∧ KeptBut [.pc, .regs] s t)

/-- spec/41_alu.md R155, R156, R157: the result bit by bit, no flag. -/
def Obligations.BitwiseLogic : Prop :=
  ∀ (s : State) (x y : RegNum),
    (∃ t, exec (.or x y) s = .next t ∧
      (∀ k, (t.reg x).getLsbD k = ((s.reg x).getLsbD k || (s.reg y).getLsbD k)) ∧
      t.pc = s.pc + 2 ∧ RegsKeptBut [x] s t ∧ KeptBut [.pc, .regs] s t) ∧
    (∃ t, exec (.and x y) s = .next t ∧
      (∀ k, (t.reg x).getLsbD k = ((s.reg x).getLsbD k && (s.reg y).getLsbD k)) ∧
      t.pc = s.pc + 2 ∧ RegsKeptBut [x] s t ∧ KeptBut [.pc, .regs] s t) ∧
    (∃ t, exec (.xor x y) s = .next t ∧
      (∀ k, (t.reg x).getLsbD k = ((s.reg x).getLsbD k != (s.reg y).getLsbD k)) ∧
      t.pc = s.pc + 2 ∧ RegsKeptBut [x] s t ∧ KeptBut [.pc, .regs] s t)

/-- The low 8 bits of the sum, and the carry in `VF`. That with `x` = 15 the flag is what `VF` holds is the spec's decision D9. -/
def Obligations.AddWithCarry : Prop :=
  ∀ (s : State) (x y : RegNum),
    ∃ t, exec (.add x y) s = .next t ∧
      (x ≠ vf → (t.reg x).toNat = ((s.reg x).toNat + (s.reg y).toNat) % 256) ∧
      IsFlag (t.reg vf) (255 < (s.reg x).toNat + (s.reg y).toNat) ∧
      t.pc = s.pc + 2 ∧ RegsKeptBut [x, vf] s t ∧ KeptBut [.pc, .regs] s t

/-- Minuend minus subtrahend modulo 256, and the flag 1 when there is no borrow. That with `x` = 15 the flag is what `VF` holds is the
spec's decision D9. -/
def Obligations.SubtractWithNotBorrow : Prop :=
  ∀ (s : State) (x y : RegNum),
    (∃ t, exec (.sub x y) s = .next t ∧
      (x ≠ vf → (t.reg x).toNat = ((s.reg x).toNat + 256 - (s.reg y).toNat) % 256) ∧
      IsFlag (t.reg vf) ((s.reg y).toNat ≤ (s.reg x).toNat) ∧
      t.pc = s.pc + 2 ∧ RegsKeptBut [x, vf] s t ∧ KeptBut [.pc, .regs] s t) ∧
    (∃ t, exec (.subN x y) s = .next t ∧
      (x ≠ vf → (t.reg x).toNat = ((s.reg y).toNat + 256 - (s.reg x).toNat) % 256) ∧
      IsFlag (t.reg vf) ((s.reg x).toNat ≤ (s.reg y).toNat) ∧
      t.pc = s.pc + 2 ∧ RegsKeptBut [x, vf] s t ∧ KeptBut [.pc, .regs] s t)

/-- A logical shift by one, and the bit shifted out in the flag. That with `x` = 15 the flag is what `VF` holds is the spec's decision
D9. -/
def Obligations.ShiftsByOne : Prop :=
  ∀ (s : State) (x : RegNum),
    (∃ t, exec (.shiftRight x) s = .next t ∧ (x ≠ vf → (t.reg x).toNat = (s.reg x).toNat / 2) ∧
      IsFlag (t.reg vf) ((s.reg x).getLsbD 0 = true) ∧
      t.pc = s.pc + 2 ∧ RegsKeptBut [x, vf] s t ∧ KeptBut [.pc, .regs] s t) ∧
    (∃ t, exec (.shiftLeft x) s = .next t ∧ (x ≠ vf → (t.reg x).toNat = 2 * (s.reg x).toNat % 256) ∧
      IsFlag (t.reg vf) ((s.reg x).getLsbD 7 = true) ∧
      t.pc = s.pc + 2 ∧ RegsKeptBut [x, vf] s t ∧ KeptBut [.pc, .regs] s t)

/-- The identities of spec/41_alu.md section 6: for `x` other than 15 the result and the flag together lose nothing. -/
def Obligations.ArithmeticIdentities : Prop :=
  ∀ (s t : State) (x y : RegNum), x ≠ vf →
    (exec (.add x y) s = .next t →
      256 * (t.reg vf).toNat + (t.reg x).toNat = (s.reg x).toNat + (s.reg y).toNat) ∧
    (exec (.sub x y) s = .next t →
      (t.reg x).toNat + (s.reg y).toNat = (s.reg x).toNat + 256 * (1 - (t.reg vf).toNat)) ∧
    (exec (.subN x y) s = .next t →
      (t.reg x).toNat + (s.reg x).toNat = (s.reg y).toNat + 256 * (1 - (t.reg vf).toNat)) ∧
    (exec (.shiftRight x) s = .next t → (s.reg x).toNat = 2 * (t.reg x).toNat + (t.reg vf).toNat) ∧
    (exec (.shiftLeft x) s = .next t → 2 * (s.reg x).toNat = 256 * (t.reg vf).toNat + (t.reg x).toNat)

/-- `Random` puts the step's byte `rand` under the mask: the byte the host has presented, or else the free value, whatever it is
(decision D20 of the spec; log 1). -/
def Obligations.RandomMasksTheRandomByte : Prop :=
  ∀ (s : State) (x : RegNum) (kk : Byte),
    (∀ b bs, s.rand = b :: bs → ∃ t, exec (.random x kk) s = .next t ∧ t.reg x = b &&& kk ∧ t.rand = bs ∧
      t.pc = s.pc + 2 ∧ RegsKeptBut [x] s t ∧ KeptBut [.pc, .regs, .rand] s t) ∧
    (s.rand = [] → ∃ t, exec (.random x kk) s = .next t ∧ t.reg x = Config.freeRand s.draws &&& kk ∧
      t.draws = s.draws + 1 ∧ t.pc = s.pc + 2 ∧ RegsKeptBut [x] s t ∧ KeptBut [.pc, .regs, .draws] s t)

/-- What every instruction leaves in `VF`, by the spec's one table. That a flag is written after the result, so that it stands with
`x` = 15, is the spec's decision D9. -/
def Obligations.FlagRegisterAfterEveryInstruction : Prop :=
  ∀ (i : Instr) (s t : State), exec i s = .next t → FlagRule i s t

/-! ## The index register and memory -/

/-- spec/42_index_memory.md R181, R183 -/
def Obligations.SetIndexAndSpriteAddr : Prop :=
  ∀ (s : State) (nnn : Addr12) (x : RegNum),
    (∃ t, exec (.setIndex nnn) s = .next t ∧ t.i.toNat = nnn.toNat ∧ t.pc = s.pc + 2 ∧ KeptBut [.pc, .i] s t) ∧
    (∃ t, exec (.spriteAddr x) s = .next t ∧ t.i.toNat = (s.reg x).toNat * 5 ∧ t.pc = s.pc + 2 ∧
      KeptBut [.pc, .i] s t)

/-- `AddIndex` adds modulo 65536, with no flag (decision D14 of the spec). -/
def Obligations.AddIndexWraps : Prop :=
  ∀ (s : State) (x : RegNum),
    ∃ t, exec (.addIndex x) s = .next t ∧ t.i.toNat = (s.i.toNat + (s.reg x).toNat) % 65536 ∧
      t.pc = s.pc + 2 ∧ KeptBut [.pc, .i] s t

/-- `Bcd` writes the three decimal digits at `I`, hundreds first, and nothing else. By decisions of the spec the range is tested whole
(D11, log 16), `I` stays (D16, log 24), and with `I` below 80 the write into the font region succeeds (D17, log 14). -/
def Obligations.BcdWritesThreeDigits : Prop :=
  ∀ (s : State) (x : RegNum), s.i.toNat + 2 ≤ 4095 →
    ∃ t, exec (.bcd x) s = .next t ∧
      (t.mem.read s.i.toNat).toNat = (s.reg x).toNat / 100 ∧
      (t.mem.read (s.i.toNat + 1)).toNat = (s.reg x).toNat / 10 % 10 ∧
      (t.mem.read (s.i.toNat + 2)).toNat = (s.reg x).toNat % 10 ∧
      BytesKeptOutside s.i.toNat 3 s t ∧ t.pc = s.pc + 2 ∧ KeptBut [.pc, .mem] s t

/-- `Store` writes `V[0]` … `V[x]` from `I` on, and nothing else. By decisions of the spec the range is tested whole (D11, log 16), `I`
stays (D16, log 24), and with `I` below 80 the write into the font region succeeds (D17, log 14). -/
def Obligations.StoreWritesRegistersUpToX : Prop :=
  ∀ (s : State) (x : RegNum), s.i.toNat + x.val ≤ 4095 →
    ∃ t, exec (.store x) s = .next t ∧ (∀ r : RegNum, r ≤ x → t.mem.read (s.i.toNat + r.val) = s.reg r) ∧
      BytesKeptOutside s.i.toNat (x.val + 1) s t ∧ t.pc = s.pc + 2 ∧ KeptBut [.pc, .mem] s t

/-- `Load` reads `V[0]` … `V[x]` from `I` on; registers above `x`, `I` and memory stay. By decisions of the spec the range is tested
whole (D11, log 16) and `I` stays (D16, log 24). -/
def Obligations.LoadReadsRegistersUpToX : Prop :=
  ∀ (s : State) (x : RegNum), s.i.toNat + x.val ≤ 4095 →
    ∃ t, exec (.load x) s = .next t ∧ (∀ r : RegNum, r ≤ x → t.reg r = s.mem.read (s.i.toNat + r.val)) ∧
      (∀ r : RegNum, x < r → t.reg r = s.reg r) ∧ t.pc = s.pc + 2 ∧ KeptBut [.pc, .regs] s t

/-- The four instructions that access memory through `I` raise `OutOfBounds` exactly when a byte of their range has no address,
with `addr` = max(`I`, 4096), and otherwise complete (decisions D11 and D12 of the spec). -/
def Obligations.RangeErrors : Prop :=
  ∀ (s : State) (x y : RegNum) (n : Fin 16),
    (4095 < s.i.toNat + 2 → exec (.bcd x) s = .fault (.outOfBounds s.pc (max s.i.toNat 4096))) ∧
    (4095 < s.i.toNat + x.val → exec (.store x) s = .fault (.outOfBounds s.pc (max s.i.toNat 4096))) ∧
    (4095 < s.i.toNat + x.val → exec (.load x) s = .fault (.outOfBounds s.pc (max s.i.toNat 4096))) ∧
    (0 < n.val → 4095 < s.i.toNat + n.val - 1 →
      exec (.draw x y n) s = .fault (.outOfBounds s.pc (max s.i.toNat 4096))) ∧
    (n.val = 0 → ∃ t, exec (.draw x y n) s = .next t)

/-- `Store`, then anything that keeps `I` and the stored bytes, then `Load`: the registers are as they were at the `Store`.
With `I` below 80 this rests on the spec's decision D17 (log 14), that `I` stays on D16 (log 24). -/
def Obligations.LoadUndoesStore : Prop :=
  ∀ (s t u : State) (x : RegNum), exec (.store x) s = .next t → u.i = s.i →
    (∀ r : RegNum, r ≤ x → u.mem.read (s.i.toNat + r.val) = t.mem.read (s.i.toNat + r.val)) →
    ∃ w, exec (.load x) u = .next w ∧ ∀ r : RegNum, r ≤ x → w.reg r = s.reg r

/-- Two bytes a `Store` wrote are the instruction the next fetch of their addresses runs: no synchronising step is needed.
Where they lie below 80 this rests on the spec's decision D17 (log 14), at an odd address on D23 (log 22). -/
def Obligations.StoredBytesAreExecuted : Prop :=
  ∀ (s t u : State) (x r r' : RegNum) (i : Instr), exec (.store x) s = .next t → r'.val = r.val + 1 → r' ≤ x →
    (∀ a, u.mem.read a = t.mem.read a) → u.pc.toNat = s.i.toNat + r.val → u.pc.toNat < 4094 →
    decode (s.reg r ++ s.reg r') = .ok i → step u = exec i u

/-- Two memories in canonical form that read alike at every address are the same list (the model's own form, log 7). -/
def Obligations.CanonicalMemoriesThatReadAlikeAreEqual : Prop :=
  ∀ m m' : Memory, m.wf = true → m'.wf = true → (∀ a, m.read a = m'.read a) → m = m'

/-! ## The display -/

/-- spec/43_display.md R201: every pixel 0 and nothing else but `PC`; redraw is 1. -/
def Obligations.ClsClearsThePlane : Prop :=
  ∀ s : State, ∃ t, exec .cls s = .next t ∧ (∀ row col, t.pix.pixel row col = false) ∧ t.pc = s.pc + 2 ∧
    KeptBut [.pc, .pix] s t ∧ s.execOutput .cls = some ⟨.nextPc t.pc, true⟩

/-- `Draw`, all at once: a pixel flips exactly when a 1 bit of the sprite lands on it, each pixel's position wrapped on its own; `VF` is
1 exactly when such a bit lands on a pixel that is 1. Bit 7 is the leftmost pixel (decision D21 of the spec); an empty range never
raises (D11); `I` stays (D16, log 24). -/
def Obligations.DrawFlipsTheCoveredPixels : Prop :=
  ∀ (s : State) (x y : RegNum) (n : Fin 16), s.RangeOk n.val →
    ∃ t, exec (.draw x y n) s = .next t ∧
      (∀ row col, SpriteCovers s x y n row col → t.pix.pixel row col = !s.pix.pixel row col) ∧
      (∀ row col, ¬SpriteCovers s x y n row col → t.pix.pixel row col = s.pix.pixel row col) ∧
      IsFlag (t.reg vf) (∃ row col, SpriteCovers s x y n row col ∧ s.pix.pixel row col = true) ∧
      t.pc = s.pc + 2 ∧ RegsKeptBut [vf] s t ∧ KeptBut [.pc, .regs, .pix] s t ∧
      s.execOutput (.draw x y n) = some ⟨.nextPc t.pc, true⟩

/-- Drawing the same sprite again at the same place restores the plane. -/
def Obligations.DrawTwiceRestoresThePlane : Prop :=
  ∀ (s t u : State) (x y : RegNum) (n : Fin 16), exec (.draw x y n) s = .next t → u.pix = t.pix → u.i = s.i →
    u.reg x = s.reg x → u.reg y = s.reg y → (∀ a, u.mem.read a = s.mem.read a) →
    ∃ w, exec (.draw x y n) u = .next w ∧ w.pix = s.pix

/-- spec/60_exceptions.md R256: the grid row by row, and nothing changes. -/
def Obligations.DisplayReadIsRowMajor : Prop :=
  ∀ s : State, (transition s .displayRead).1 = s ∧
    ∃ bits, (transition s .displayRead).2 = .plane bits ∧ bits.length = 2048 ∧
      ∀ (row : Fin 32) (col : Fin 64), bits[row.val * 64 + col.val]? = some (s.pix.pixel row col)

/-! ## Keypad and timers -/

/-- `SkipKey` and `SkipNotKey` test the key named by the low four bits of `V[x]` (decision D15 of the spec). -/
def Obligations.KeySkips : Prop :=
  ∀ (s : State) (x : RegNum) (k : KeyNum), k.val = (s.reg x).toNat % 16 →
    (∃ t, exec (.skipKey x) s = .next t ∧ KeptBut [.pc] s t ∧
      (s.key[k] = true → t.pc = s.pc + 4) ∧ (s.key[k] = false → t.pc = s.pc + 2)) ∧
    (∃ t, exec (.skipNotKey x) s = .next t ∧ KeptBut [.pc] s t ∧
      (s.key[k] = false → t.pc = s.pc + 4) ∧ (s.key[k] = true → t.pc = s.pc + 2))

/-- `WaitKeyPress` stores the lowest key that is down and advances; with none down it changes nothing at all (decision D30 of the
spec). -/
def Obligations.WaitKeyPressStoresTheLowestKey : Prop :=
  ∀ (s : State) (x : RegNum),
    (∀ k : KeyNum, s.key[k] = true → (∀ j : KeyNum, j < k → s.key[j] = false) →
      ∃ t, exec (.waitKeyPress x) s = .next t ∧ (t.reg x).toNat = k.val ∧ t.pc = s.pc + 2 ∧
        RegsKeptBut [x] s t ∧ KeptBut [.pc, .regs] s t) ∧
    ((∀ k : KeyNum, s.key[k] = false) → exec (.waitKeyPress x) s = .next s)

/-- spec/44_keypad_timers.md R221 -/
def Obligations.FirstPressedIsTheLowestKeyDown : Prop :=
  ∀ s : State,
    (∀ k : KeyNum, s.firstPressed = some k ↔ s.key[k] = true ∧ ∀ j : KeyNum, j < k → s.key[j] = false) ∧
    (s.firstPressed = none ↔ ∀ k : KeyNum, s.key[k] = false)

/-- spec/44_keypad_timers.md R225, R226, R227 -/
def Obligations.TimerInstructions : Prop :=
  ∀ (s : State) (x : RegNum),
    (∃ t, exec (.loadDelay x) s = .next t ∧ t.reg x = s.dt ∧ t.pc = s.pc + 2 ∧ RegsKeptBut [x] s t ∧
      KeptBut [.pc, .regs] s t) ∧
    (∃ t, exec (.setDelay x) s = .next t ∧ t.dt = s.reg x ∧ t.pc = s.pc + 2 ∧ KeptBut [.pc, .dt] s t) ∧
    (∃ t, exec (.setSound x) s = .next t ∧ t.st = s.reg x ∧ t.pc = s.pc + 2 ∧ KeptBut [.pc, .st] s t)

/-- spec/44_keypad_timers.md R228: one tick counts each timer down to 0 and no further and changes nothing else; no step counts a
timer down, `DT` and `ST` change only by the two instructions that set them. -/
def Obligations.OnlyTicksCountDown : Prop :=
  ∀ s : State,
    (s.tickTimers.dt.toNat = s.dt.toNat - 1 ∧ s.tickTimers.st.toNat = s.st.toNat - 1 ∧
      KeptBut [.dt, .st] s s.tickTimers ∧ transition s .tickTimers = (s.tickTimers, .done)) ∧
    (∀ t, step s = .next t →
      (t.dt = s.dt ∨ ∃ x, s.fetchDecode = .ok (.setDelay x) ∧ t.dt = s.reg x) ∧
      (t.st = s.st ∨ ∃ x, s.fetchDecode = .ok (.setSound x) ∧ t.st = s.reg x))

/-- After `SetDelay` with value `v` and `n` ticks, `LoadDelay` returns `max(v - n, 0)`. -/
def Obligations.LoadDelayAfterTicks : Prop :=
  ∀ (s t u : State) (x y : RegNum) (n : Nat), exec (.setDelay x) s = .next t → u.dt = (t.tickTimes n).dt →
    ∃ w, exec (.loadDelay y) u = .next w ∧ (w.reg y).toNat = (s.reg x).toNat - n

/-! ## The interface, errors, reset -/

/-- `key_set` changes the named key and nothing else (the width of `key` is decision D31 of the spec). -/
def Obligations.KeySetChangesOneKey : Prop :=
  ∀ (s : State) (k : KeyNum) (down : Bool), ∃ t, transition s (.keySet k down) = (t, .done) ∧
    (∀ j : KeyNum, t.key[j] = if j = k then down else s.key[j]) ∧ KeptBut [.key] s t

/-- At most 3583 bytes are accepted and byte `j` goes to `512 + j`; no other operation from outside, reset aside, writes memory
(spec/20_memory.md R66). That a load clears nothing, touches no other state and works in any state, a second time too, is
spec/70_reset_and_hazards.md R284 under the spec's decision D25 (log 20). -/
def Obligations.LoadWritesTheProgram : Prop :=
  (∀ (s : State) (bytes : List Byte), bytes.length ≤ 3583 →
    ∃ t, transition s (.load bytes) = (t, .loaded true) ∧
      (∀ (j : Nat) (h : j < bytes.length), t.mem.read (512 + j) = bytes[j]) ∧
      BytesKeptOutside 512 bytes.length s t ∧ KeptBut [.mem] s t) ∧
  (∀ (s : State) (op : Operation), (∀ b, op ≠ .step b) → op ≠ .reset → (∀ bytes, op ≠ .load bytes) →
    ∀ a, (transition s op).1.mem.read a = s.mem.read a)

/-- A longer sequence is refused whole (decision D25 of the spec). -/
def Obligations.OverlongLoadIsRefused : Prop :=
  ∀ (s : State) (bytes : List Byte), 3583 < bytes.length → transition s (.load bytes) = (s, .loaded false)

/-- A step that raises leaves no trace, and after any ticks, key changes and further steps a step raises the same error (decisions D10 and D26
of the spec). -/
def Obligations.ErrorsLeaveNoTraceAndRepeat : Prop :=
  ∀ (s : State) (b : Byte) (f : Fault), step (s.withRand b) = .fault f →
    transition s (.step b) = (s, .stepped (some ⟨.error f, false⟩)) ∧
    ∀ ops : List Operation, (∀ op ∈ ops, op = .tickTimers ∨ (∃ k d, op = .keySet k d) ∨ ∃ b', op = .step b') →
      ∀ b', step ((runOps s ops).withRand b') = .fault f

/-- The state reset leaves. The zeros of the stack entries, of `KEY` and of `MEM[80..511]` are the spec's own (decision D18), and the
font bytes are a configuration value (D22). -/
def Obligations.ResetState : Prop :=
  ∀ s : State, ∃ t, transition s .reset = (t, .done) ∧ t = State.reset ∧
    (∀ r, t.reg r = 0) ∧ t.i = 0 ∧ t.dt = 0 ∧ t.st = 0 ∧ t.pc.toNat = 512 ∧ t.sp = 0 ∧
    (∀ k : Fin 16, t.stack[k] = 0) ∧ (∀ row col, t.pix.pixel row col = false) ∧ (∀ k : KeyNum, t.key[k] = false) ∧
    (∀ a, 80 ≤ a → t.mem.read a = 0) ∧
    (∀ (a : Nat) (h : a < Config.font.length), t.mem.read a = Config.font[a]) ∧ Config.font.length = 80

/-- spec/10_state.md R37: who writes what. A step never writes `KEY`, and writes the timers and memory only by the instructions named;
the outside never writes `V`, `I`, `PC`, `SP`, `STACK`, `PIX`, and writes the timers, memory and `KEY` only by the operation named. -/
def Obligations.SingleWriterDiscipline : Prop :=
  ∀ s : State,
    (∀ t, step s = .next t → t.key = s.key ∧
      (t.dt ≠ s.dt → ∃ x, s.fetchDecode = .ok (.setDelay x)) ∧
      (t.st ≠ s.st → ∃ x, s.fetchDecode = .ok (.setSound x)) ∧
      ((∃ a, t.mem.read a ≠ s.mem.read a) → ∃ x, s.fetchDecode = .ok (.bcd x) ∨ s.fetchDecode = .ok (.store x))) ∧
    (∀ op : Operation, (∀ b, op ≠ .step b) → op ≠ .reset →
      KeptBut [.dt, .st, .mem, .key] s (transition s op).1 ∧
      (op ≠ .tickTimers → (transition s op).1.dt = s.dt ∧ (transition s op).1.st = s.st) ∧
      ((∀ bytes, op ≠ .load bytes) → ∀ a, (transition s op).1.mem.read a = s.mem.read a) ∧
      ((∀ k d, op ≠ .keySet k d) → (transition s op).1.key = s.key))

/-- `I` is written only by three instructions, the stack only by `Call` and `Ret`, the plane only by `Cls` and `Draw`. By decisions of
the spec `Bcd`, `Store`, `Load` and `Draw` leave `I` (D16, log 24), and `Ret` leaves the entry it pops (D4, log 10). -/
def Obligations.OnlyTheNamedInstructionsWrite : Prop :=
  ∀ (i : Instr) (s t : State), exec i s = .next t →
    (t.i ≠ s.i → (∃ nnn, i = .setIndex nnn) ∨ ∃ x, i = .addIndex x ∨ i = .spriteAddr x) ∧
    (t.sp ≠ s.sp → i = .ret ∨ ∃ nnn, i = .call nnn) ∧ (t.stack ≠ s.stack → ∃ nnn, i = .call nnn) ∧
    (t.pix ≠ s.pix → i = .cls ∨ ∃ x y n, i = .draw x y n)

/-- The register table of spec/10_state.md section 2: an instruction writes only the registers the table says it writes, and what it does
depends on no register but those the table says it reads. -/
def Obligations.RegisterUse : Prop :=
  ∀ (i : Instr) (s s' t : State), KeptBut [.regs] s s' → (∀ r ∈ regReads i, s'.reg r = s.reg r) →
    exec i s = .next t →
    ∃ t', exec i s' = .next t' ∧ KeptBut [.regs] t t' ∧ (∀ r ∈ s.regWrites i, t'.reg r = t.reg r) ∧
      RegsKeptBut (s.regWrites i) s t ∧ RegsKeptBut (s.regWrites i) s' t'

/-! ## The invariant -/

/-- The invariant holds after reset. -/
def Obligations.ResetIsGood : Prop := State.Inv State.reset

/-- Every step keeps the canonical form of memory, the range of `PC`, and the range of the return addresses. -/
def Obligations.EveryStepKeepsTheInvariant : Prop :=
  ∀ s t : State, s.Inv → step s = .next t → t.Inv

/-- So does any sequence of the interface's operations, from any good state. -/
def Obligations.EveryOperationKeepsTheInvariant : Prop :=
  ∀ (s : State) (ops : List Operation), s.Inv → (runOps s ops).Inv
end

