-- ==== Sys2Proof/Laws/Decode.lean ====
section
/-! SUPPORT. Fields and words as numbers (spec/30_encoding.md R81): the fields of a word by quotient and remainder, and the number an
encoded word spells, so that questions of encoding are questions of arithmetic. -/

namespace Sys2Proof

/-! ## Fields of a word -/

theorem fieldF_toNat (w : Word) : (fieldF w).toNat = w.toNat / 4096 := by
  simp [fieldF, BitVec.extractLsb'_toNat, Nat.shiftRight_eq_div_pow]; omega

theorem fieldX_val (w : Word) : (fieldX w).val = w.toNat / 256 % 16 := by
  simp [fieldX, Nat.shiftRight_eq_div_pow]

theorem fieldY_val (w : Word) : (fieldY w).val = w.toNat / 16 % 16 := by
  simp [fieldY, Nat.shiftRight_eq_div_pow]

theorem fieldN_val (w : Word) : (fieldN w).val = w.toNat % 16 := by
  simp [fieldN]

theorem fieldKK_toNat (w : Word) : (fieldKK w).toNat = w.toNat % 256 := by
  simp [fieldKK, BitVec.extractLsb'_toNat]

theorem fieldNNN_toNat (w : Word) : (fieldNNN w).toNat = w.toNat % 4096 := by
  simp [fieldNNN, BitVec.extractLsb'_toNat]

/-! ## Words built from fields -/

theorem toNat_append_eq {m n : Nat} (a : BitVec m) (b : BitVec n) : (a ++ b).toNat = a.toNat * 2 ^ n + b.toNat := by
  rw [BitVec.toNat_append, ← Nat.shiftLeft_add_eq_or_of_lt b.isLt, Nat.shiftLeft_eq]

theorem wordOfBytes_toNat (upper lower : Byte) : (wordOfBytes upper lower).toNat = upper.toNat * 256 + lower.toNat :=
  toNat_append_eq upper lower

@[simp] theorem nibble_toNat (r : Fin 16) : (nibble r).toNat = r.val := rfl

theorem wordNNN_toNat (f : BitVec 4) (nnn : Addr12) : (wordNNN f nnn).toNat = f.toNat * 4096 + nnn.toNat :=
  toNat_append_eq f nnn

theorem wordXKK_toNat (f : BitVec 4) (x : RegNum) (kk : Byte) :
    (wordXKK f x kk).toNat = f.toNat * 4096 + x.val * 256 + kk.toNat := by
  simp only [wordXKK, toNat_append_eq, nibble_toNat]; omega

theorem wordXYN_toNat (f : BitVec 4) (x y : RegNum) (n : BitVec 4) :
    (wordXYN f x y n).toNat = f.toNat * 4096 + x.val * 256 + y.val * 16 + n.toNat := by
  simp only [wordXYN, toNat_append_eq, nibble_toNat]; omega

/-! ## Fields of built words -/

section NNN
variable (f : BitVec 4) (nnn : Addr12)

@[simp] theorem fieldF_wordNNN : fieldF (wordNNN f nnn) = f := by
  apply BitVec.eq_of_toNat_eq; rw [fieldF_toNat, wordNNN_toNat]; omega

@[simp] theorem fieldNNN_wordNNN : fieldNNN (wordNNN f nnn) = nnn := by
  apply BitVec.eq_of_toNat_eq; rw [fieldNNN_toNat, wordNNN_toNat]; omega

end NNN

section XKK
variable (f : BitVec 4) (x : RegNum) (kk : Byte)

@[simp] theorem fieldF_wordXKK : fieldF (wordXKK f x kk) = f := by
  apply BitVec.eq_of_toNat_eq; rw [fieldF_toNat, wordXKK_toNat]; omega

@[simp] theorem fieldX_wordXKK : fieldX (wordXKK f x kk) = x := by
  apply Fin.ext; rw [fieldX_val, wordXKK_toNat]; omega

@[simp] theorem fieldKK_wordXKK : fieldKK (wordXKK f x kk) = kk := by
  apply BitVec.eq_of_toNat_eq; rw [fieldKK_toNat, wordXKK_toNat]; omega

end XKK

section XYN
variable (f : BitVec 4) (x y : RegNum) (n : BitVec 4)

@[simp] theorem fieldF_wordXYN : fieldF (wordXYN f x y n) = f := by
  apply BitVec.eq_of_toNat_eq; rw [fieldF_toNat, wordXYN_toNat]; omega

@[simp] theorem fieldX_wordXYN : fieldX (wordXYN f x y n) = x := by
  apply Fin.ext; rw [fieldX_val, wordXYN_toNat]; omega

@[simp] theorem fieldY_wordXYN : fieldY (wordXYN f x y n) = y := by
  apply Fin.ext; rw [fieldY_val, wordXYN_toNat]; omega

@[simp] theorem fieldN_wordXYN : fieldN (wordXYN f x y n) = n.toFin := by
  apply Fin.ext; rw [fieldN_val, wordXYN_toNat]; change _ = n.toNat; omega

end XYN

end Sys2Proof
end

