-- ==== Sys2Proof/Laws/Memory.lean ====
section
/-! SUPPORT. Memory: a read after a write, and that every memory operation keeps the canonical form. -/

namespace Sys2Proof.Machine

/-! ## Reading after writing: true of every list, canonical or not -/

@[simp] theorem Memory.read_nil (a : Nat) : Memory.read [] a = Memory.initial a := rfl

theorem Memory.read_cons (c : Host.Cell) (m : Memory) (a : Nat) :
    Memory.read (c :: m) a = if c.1 = a then c.2 else Memory.read m a := rfl

theorem Memory.erase_cons (c : Host.Cell) (m : Memory) (a : Nat) :
    Memory.erase (c :: m) a = if c.1 = a then Memory.erase m a else c :: Memory.erase m a := by
  by_cases h : c.1 = a <;> simp [Memory.erase, h]

theorem Memory.read_erase (m : Memory) (a a' : Nat) :
    (m.erase a).read a' = if a' = a then Memory.initial a else m.read a' := by
  induction m with
  | nil => by_cases h : a' = a <;> simp [Memory.erase, h]
  | cons c m ih =>
    rw [Memory.erase_cons, Memory.read_cons]
    split
    · rename_i h; rw [ih]; split <;> simp_all [eq_comm]
    · rename_i h; rw [Memory.read_cons, ih]; split <;> simp_all

theorem Memory.read_insert (m : Memory) (a a' : Nat) (b : Byte) (hm : ∀ c ∈ m, c.1 ≠ a) :
    (m.insert (a, b)).read a' = if a' = a then b else m.read a' := by
  induction m with
  | nil => grind [Memory.insert, Memory.read_cons, Memory.read_nil]
  | cons c m ih =>
    have hc : c.1 ≠ a := hm c (by simp)
    have ih := ih fun d hd => hm d (by simp [hd])
    unfold Memory.insert
    split <;> grind [Memory.read_cons]

theorem Memory.not_mem_erase (m : Memory) (a : Nat) : ∀ c ∈ m.erase a, c.1 ≠ a := by
  simp [Memory.erase]

/-- A read after a write: the byte written at its address, every other byte as before (spec/20_memory.md R61). -/
theorem Memory.read_write (m : Memory) (a a' : Nat) (b : Byte) :
    (m.write a b).read a' = if a' = a then b else m.read a' := by
  unfold Memory.write
  split
  · rename_i h; rw [Memory.read_erase]; split <;> simp_all
  · rw [Memory.read_insert _ _ _ _ (Memory.not_mem_erase m a), Memory.read_erase]; split <;> simp_all

/-- The same for consecutive bytes. -/
theorem Memory.read_writeList (bytes : List Byte) (m : Memory) (base a : Nat) :
    (m.writeList base bytes).read a =
      if base ≤ a then bytes.getD (a - base) (m.read a) else m.read a := by
  induction bytes generalizing m base with
  | nil => simp [Memory.writeList]
  | cons b bs ih =>
    rw [Memory.writeList, ih, Memory.read_write]
    rcases Nat.lt_trichotomy a base with h | h | h
    · simp [show ¬base ≤ a by omega, show ¬base + 1 ≤ a by omega, show a ≠ base by omega]
    · simp [h]
    · simp [show base ≤ a by omega, show base + 1 ≤ a by omega, show a ≠ base by omega,
        show a - base = (a - (base + 1)) + 1 by omega]

theorem Memory.read_writeList_inside {bytes : List Byte} {m : Memory} {base j : Nat} (h : j < bytes.length) :
    (m.writeList base bytes).read (base + j) = bytes[j] := by
  simp [Memory.read_writeList, h]

theorem Memory.read_writeList_outside {bytes : List Byte} {m : Memory} {base a : Nat}
    (h : a < base ∨ base + bytes.length ≤ a) : (m.writeList base bytes).read a = m.read a := by
  rw [Memory.read_writeList]
  split
  · rw [List.getD_eq_default _ _ (by omega)]
  · rfl

@[simp] theorem Memory.readList_length (m : Memory) (base k : Nat) : (m.readList base k).length = k := by
  simp [Memory.readList]

@[simp] theorem Memory.readList_getElem (m : Memory) (base k j : Nat) (h : j < (m.readList base k).length) :
    (m.readList base k)[j] = m.read (base + j) := by
  simp [Memory.readList]

/-! ## The canonical form -/

/-- The canonical form, said with `List.Pairwise`: the working form of `Memory.wf`. -/
theorem Memory.wf_iff (m : Memory) :
    m.wf = true ↔ m.Pairwise (fun c d => c.1 < d.1) ∧ ∀ c ∈ m, cellOk c = true := by
  induction m with
  | nil => simp [Memory.wf]
  | cons c m ih =>
    cases m with
    | nil => simp [Memory.wf]
    | cons d m =>
      simp only [Memory.wf, Bool.and_eq_true, decide_eq_true_eq, ih, List.pairwise_cons, List.mem_cons, forall_eq_or_imp]
      constructor
      · rintro ⟨⟨hc, hcd⟩, ⟨hd, hm⟩, hok⟩
        exact ⟨⟨⟨hcd, fun e he => Nat.lt_trans hcd (hd e he)⟩, hd, hm⟩, hc, hok⟩
      · rintro ⟨⟨⟨hcd, _⟩, hd, hm⟩, hc, hok⟩
        exact ⟨⟨hc, hcd⟩, ⟨hd, hm⟩, hok⟩

theorem Memory.mem_insert (m : Memory) (c d : Host.Cell) : d ∈ m.insert c ↔ d = c ∨ d ∈ m := by
  induction m with
  | nil => simp [Memory.insert]
  | cons e m ih => unfold Memory.insert; split <;> simp [ih, or_left_comm]

theorem Memory.pairwise_insert (m : Memory) (c : Host.Cell) (hm : m.Pairwise fun d e => d.1 < e.1)
    (hc : ∀ d ∈ m, d.1 ≠ c.1) : (m.insert c).Pairwise fun d e => d.1 < e.1 := by
  induction m with
  | nil => simp [Memory.insert]
  | cons d m ih =>
    rw [List.pairwise_cons] at hm
    have hdc : d.1 ≠ c.1 := hc d (by simp)
    unfold Memory.insert
    split
    · rename_i hlt
      refine List.pairwise_cons.2 ⟨fun e he => ?_, ih hm.2 fun e he => hc e (by simp [he])⟩
      rcases (Memory.mem_insert m c e).1 he with rfl | he
      · exact hlt
      · exact hm.1 e he
    · rename_i hlt
      refine List.pairwise_cons.2 ⟨fun e he => ?_, List.pairwise_cons.2 hm⟩
      rcases List.mem_cons.1 he with rfl | he
      · omega
      · have := hm.1 e he; omega

/-- A write at an address that exists keeps the canonical form. -/
theorem Memory.wf_write {m : Memory} (h : m.wf = true) {a : Nat} (ha : a < 4096) (b : Byte) :
    (m.write a b).wf = true := by
  rw [Memory.wf_iff] at h ⊢
  have he : (m.erase a).Pairwise (fun c d => c.1 < d.1) := List.Pairwise.filter _ h.1
  have ho : ∀ c ∈ m.erase a, cellOk c = true := fun c hc => h.2 c (List.mem_filter.1 hc).1
  unfold Memory.write
  split
  · exact ⟨he, ho⟩
  · rename_i hb
    refine ⟨Memory.pairwise_insert _ _ he (Memory.not_mem_erase m a), fun c hc => ?_⟩
    rcases (Memory.mem_insert _ _ _).1 hc with rfl | hc
    · simp [cellOk, ha, hb]
    · exact ho c hc

/-- Writing consecutive bytes keeps it when every one of them has an address. -/
theorem Memory.wf_writeList (bytes : List Byte) {m : Memory} (h : m.wf = true) {base : Nat}
    (hb : base + bytes.length ≤ 4096) : (m.writeList base bytes).wf = true := by
  induction bytes generalizing m base with
  | nil => exact h
  | cons b bs ih =>
    simp only [List.length_cons] at hb
    exact ih (Memory.wf_write h (by omega) b) (by omega)

/-- Reset memory, with nothing listed, has it. -/
theorem Memory.wf_reset : State.reset.mem.wf = true := rfl

end Sys2Proof.Machine
end

