-- ==== Sys2Proof/Laws/State.lean ====
section
/-! SUPPORT. One lemma per field per update of the state, true by unfolding the update once, so that no later proof unfolds a record
update; and what a register reads as after each update. -/

namespace Sys2Proof.Machine

variable (s : State)

/-! ## setPc -/

@[simp] theorem State.setPc_v (a : Word) : (s.setPc a).v = s.v := rfl
@[simp] theorem State.setPc_i (a : Word) : (s.setPc a).i = s.i := rfl
@[simp] theorem State.setPc_pc (a : Word) : (s.setPc a).pc = a := rfl
@[simp] theorem State.setPc_stack (a : Word) : (s.setPc a).stack = s.stack := rfl
@[simp] theorem State.setPc_sp (a : Word) : (s.setPc a).sp = s.sp := rfl
@[simp] theorem State.setPc_dt (a : Word) : (s.setPc a).dt = s.dt := rfl
@[simp] theorem State.setPc_st (a : Word) : (s.setPc a).st = s.st := rfl
@[simp] theorem State.setPc_mem (a : Word) : (s.setPc a).mem = s.mem := rfl
@[simp] theorem State.setPc_pix (a : Word) : (s.setPc a).pix = s.pix := rfl
@[simp] theorem State.setPc_key (a : Word) : (s.setPc a).key = s.key := rfl
@[simp] theorem State.setPc_rand (a : Word) : (s.setPc a).rand = s.rand := rfl
@[simp] theorem State.setPc_draws (a : Word) : (s.setPc a).draws = s.draws := rfl
@[simp] theorem State.reg_setPc (a : Word) (r : RegNum) : (s.setPc a).reg r = s.reg r := rfl

/-! ## setIndex -/

@[simp] theorem State.setIndex_v (a : Word) : (s.setIndex a).v = s.v := rfl
@[simp] theorem State.setIndex_i (a : Word) : (s.setIndex a).i = a := rfl
@[simp] theorem State.setIndex_pc (a : Word) : (s.setIndex a).pc = s.pc := rfl
@[simp] theorem State.setIndex_stack (a : Word) : (s.setIndex a).stack = s.stack := rfl
@[simp] theorem State.setIndex_sp (a : Word) : (s.setIndex a).sp = s.sp := rfl
@[simp] theorem State.setIndex_dt (a : Word) : (s.setIndex a).dt = s.dt := rfl
@[simp] theorem State.setIndex_st (a : Word) : (s.setIndex a).st = s.st := rfl
@[simp] theorem State.setIndex_mem (a : Word) : (s.setIndex a).mem = s.mem := rfl
@[simp] theorem State.setIndex_pix (a : Word) : (s.setIndex a).pix = s.pix := rfl
@[simp] theorem State.setIndex_key (a : Word) : (s.setIndex a).key = s.key := rfl
@[simp] theorem State.setIndex_rand (a : Word) : (s.setIndex a).rand = s.rand := rfl
@[simp] theorem State.setIndex_draws (a : Word) : (s.setIndex a).draws = s.draws := rfl
@[simp] theorem State.reg_setIndex (a : Word) (r : RegNum) : (s.setIndex a).reg r = s.reg r := rfl

/-! ## setDt -/

@[simp] theorem State.setDt_v (b : Byte) : (s.setDt b).v = s.v := rfl
@[simp] theorem State.setDt_i (b : Byte) : (s.setDt b).i = s.i := rfl
@[simp] theorem State.setDt_pc (b : Byte) : (s.setDt b).pc = s.pc := rfl
@[simp] theorem State.setDt_stack (b : Byte) : (s.setDt b).stack = s.stack := rfl
@[simp] theorem State.setDt_sp (b : Byte) : (s.setDt b).sp = s.sp := rfl
@[simp] theorem State.setDt_dt (b : Byte) : (s.setDt b).dt = b := rfl
@[simp] theorem State.setDt_st (b : Byte) : (s.setDt b).st = s.st := rfl
@[simp] theorem State.setDt_mem (b : Byte) : (s.setDt b).mem = s.mem := rfl
@[simp] theorem State.setDt_pix (b : Byte) : (s.setDt b).pix = s.pix := rfl
@[simp] theorem State.setDt_key (b : Byte) : (s.setDt b).key = s.key := rfl
@[simp] theorem State.setDt_rand (b : Byte) : (s.setDt b).rand = s.rand := rfl
@[simp] theorem State.setDt_draws (b : Byte) : (s.setDt b).draws = s.draws := rfl
@[simp] theorem State.reg_setDt (b : Byte) (r : RegNum) : (s.setDt b).reg r = s.reg r := rfl

/-! ## setSt -/

@[simp] theorem State.setSt_v (b : Byte) : (s.setSt b).v = s.v := rfl
@[simp] theorem State.setSt_i (b : Byte) : (s.setSt b).i = s.i := rfl
@[simp] theorem State.setSt_pc (b : Byte) : (s.setSt b).pc = s.pc := rfl
@[simp] theorem State.setSt_stack (b : Byte) : (s.setSt b).stack = s.stack := rfl
@[simp] theorem State.setSt_sp (b : Byte) : (s.setSt b).sp = s.sp := rfl
@[simp] theorem State.setSt_dt (b : Byte) : (s.setSt b).dt = s.dt := rfl
@[simp] theorem State.setSt_st (b : Byte) : (s.setSt b).st = b := rfl
@[simp] theorem State.setSt_mem (b : Byte) : (s.setSt b).mem = s.mem := rfl
@[simp] theorem State.setSt_pix (b : Byte) : (s.setSt b).pix = s.pix := rfl
@[simp] theorem State.setSt_key (b : Byte) : (s.setSt b).key = s.key := rfl
@[simp] theorem State.setSt_rand (b : Byte) : (s.setSt b).rand = s.rand := rfl
@[simp] theorem State.setSt_draws (b : Byte) : (s.setSt b).draws = s.draws := rfl
@[simp] theorem State.reg_setSt (b : Byte) (r : RegNum) : (s.setSt b).reg r = s.reg r := rfl

/-! ## setPix -/

@[simp] theorem State.setPix_v (p : Plane) : (s.setPix p).v = s.v := rfl
@[simp] theorem State.setPix_i (p : Plane) : (s.setPix p).i = s.i := rfl
@[simp] theorem State.setPix_pc (p : Plane) : (s.setPix p).pc = s.pc := rfl
@[simp] theorem State.setPix_stack (p : Plane) : (s.setPix p).stack = s.stack := rfl
@[simp] theorem State.setPix_sp (p : Plane) : (s.setPix p).sp = s.sp := rfl
@[simp] theorem State.setPix_dt (p : Plane) : (s.setPix p).dt = s.dt := rfl
@[simp] theorem State.setPix_st (p : Plane) : (s.setPix p).st = s.st := rfl
@[simp] theorem State.setPix_mem (p : Plane) : (s.setPix p).mem = s.mem := rfl
@[simp] theorem State.setPix_pix (p : Plane) : (s.setPix p).pix = p := rfl
@[simp] theorem State.setPix_key (p : Plane) : (s.setPix p).key = s.key := rfl
@[simp] theorem State.setPix_rand (p : Plane) : (s.setPix p).rand = s.rand := rfl
@[simp] theorem State.setPix_draws (p : Plane) : (s.setPix p).draws = s.draws := rfl
@[simp] theorem State.reg_setPix (p : Plane) (r : RegNum) : (s.setPix p).reg r = s.reg r := rfl

/-! ## setReg -/

@[simp] theorem State.setReg_v (x : RegNum) (b : Byte) : (s.setReg x b).v = s.v.set x b := rfl
@[simp] theorem State.setReg_i (x : RegNum) (b : Byte) : (s.setReg x b).i = s.i := rfl
@[simp] theorem State.setReg_pc (x : RegNum) (b : Byte) : (s.setReg x b).pc = s.pc := rfl
@[simp] theorem State.setReg_stack (x : RegNum) (b : Byte) : (s.setReg x b).stack = s.stack := rfl
@[simp] theorem State.setReg_sp (x : RegNum) (b : Byte) : (s.setReg x b).sp = s.sp := rfl
@[simp] theorem State.setReg_dt (x : RegNum) (b : Byte) : (s.setReg x b).dt = s.dt := rfl
@[simp] theorem State.setReg_st (x : RegNum) (b : Byte) : (s.setReg x b).st = s.st := rfl
@[simp] theorem State.setReg_mem (x : RegNum) (b : Byte) : (s.setReg x b).mem = s.mem := rfl
@[simp] theorem State.setReg_pix (x : RegNum) (b : Byte) : (s.setReg x b).pix = s.pix := rfl
@[simp] theorem State.setReg_key (x : RegNum) (b : Byte) : (s.setReg x b).key = s.key := rfl
@[simp] theorem State.setReg_rand (x : RegNum) (b : Byte) : (s.setReg x b).rand = s.rand := rfl
@[simp] theorem State.setReg_draws (x : RegNum) (b : Byte) : (s.setReg x b).draws = s.draws := rfl

/-! ## setFlag -/

@[simp] theorem State.setFlag_v (b : Bool) : (s.setFlag b).v = s.v.set vf (flagByte b) := rfl
@[simp] theorem State.setFlag_i (b : Bool) : (s.setFlag b).i = s.i := rfl
@[simp] theorem State.setFlag_pc (b : Bool) : (s.setFlag b).pc = s.pc := rfl
@[simp] theorem State.setFlag_stack (b : Bool) : (s.setFlag b).stack = s.stack := rfl
@[simp] theorem State.setFlag_sp (b : Bool) : (s.setFlag b).sp = s.sp := rfl
@[simp] theorem State.setFlag_dt (b : Bool) : (s.setFlag b).dt = s.dt := rfl
@[simp] theorem State.setFlag_st (b : Bool) : (s.setFlag b).st = s.st := rfl
@[simp] theorem State.setFlag_mem (b : Bool) : (s.setFlag b).mem = s.mem := rfl
@[simp] theorem State.setFlag_pix (b : Bool) : (s.setFlag b).pix = s.pix := rfl
@[simp] theorem State.setFlag_key (b : Bool) : (s.setFlag b).key = s.key := rfl
@[simp] theorem State.setFlag_rand (b : Bool) : (s.setFlag b).rand = s.rand := rfl
@[simp] theorem State.setFlag_draws (b : Bool) : (s.setFlag b).draws = s.draws := rfl

/-! ## setFlagged -/

@[simp] theorem State.setFlagged_v (x : RegNum) (r : Flagged) : (s.setFlagged x r).v = (s.v.set x r.value).set vf (flagByte r.flag) := rfl
@[simp] theorem State.setFlagged_i (x : RegNum) (r : Flagged) : (s.setFlagged x r).i = s.i := rfl
@[simp] theorem State.setFlagged_pc (x : RegNum) (r : Flagged) : (s.setFlagged x r).pc = s.pc := rfl
@[simp] theorem State.setFlagged_stack (x : RegNum) (r : Flagged) : (s.setFlagged x r).stack = s.stack := rfl
@[simp] theorem State.setFlagged_sp (x : RegNum) (r : Flagged) : (s.setFlagged x r).sp = s.sp := rfl
@[simp] theorem State.setFlagged_dt (x : RegNum) (r : Flagged) : (s.setFlagged x r).dt = s.dt := rfl
@[simp] theorem State.setFlagged_st (x : RegNum) (r : Flagged) : (s.setFlagged x r).st = s.st := rfl
@[simp] theorem State.setFlagged_mem (x : RegNum) (r : Flagged) : (s.setFlagged x r).mem = s.mem := rfl
@[simp] theorem State.setFlagged_pix (x : RegNum) (r : Flagged) : (s.setFlagged x r).pix = s.pix := rfl
@[simp] theorem State.setFlagged_key (x : RegNum) (r : Flagged) : (s.setFlagged x r).key = s.key := rfl
@[simp] theorem State.setFlagged_rand (x : RegNum) (r : Flagged) : (s.setFlagged x r).rand = s.rand := rfl
@[simp] theorem State.setFlagged_draws (x : RegNum) (r : Flagged) : (s.setFlagged x r).draws = s.draws := rfl

/-! ## storeBytes -/

@[simp] theorem State.storeBytes_v (bytes : List Byte) : (s.storeBytes bytes).v = s.v := rfl
@[simp] theorem State.storeBytes_i (bytes : List Byte) : (s.storeBytes bytes).i = s.i := rfl
@[simp] theorem State.storeBytes_pc (bytes : List Byte) : (s.storeBytes bytes).pc = s.pc := rfl
@[simp] theorem State.storeBytes_stack (bytes : List Byte) : (s.storeBytes bytes).stack = s.stack := rfl
@[simp] theorem State.storeBytes_sp (bytes : List Byte) : (s.storeBytes bytes).sp = s.sp := rfl
@[simp] theorem State.storeBytes_dt (bytes : List Byte) : (s.storeBytes bytes).dt = s.dt := rfl
@[simp] theorem State.storeBytes_st (bytes : List Byte) : (s.storeBytes bytes).st = s.st := rfl
@[simp] theorem State.storeBytes_mem (bytes : List Byte) : (s.storeBytes bytes).mem = s.mem.writeList s.i.toNat bytes := rfl
@[simp] theorem State.storeBytes_pix (bytes : List Byte) : (s.storeBytes bytes).pix = s.pix := rfl
@[simp] theorem State.storeBytes_key (bytes : List Byte) : (s.storeBytes bytes).key = s.key := rfl
@[simp] theorem State.storeBytes_rand (bytes : List Byte) : (s.storeBytes bytes).rand = s.rand := rfl
@[simp] theorem State.storeBytes_draws (bytes : List Byte) : (s.storeBytes bytes).draws = s.draws := rfl
@[simp] theorem State.reg_storeBytes (bytes : List Byte) (r : RegNum) : (s.storeBytes bytes).reg r = s.reg r := rfl

/-! ## loadRegs -/

@[simp] theorem State.loadRegs_i (x : RegNum) : (s.loadRegs x).i = s.i := rfl
@[simp] theorem State.loadRegs_pc (x : RegNum) : (s.loadRegs x).pc = s.pc := rfl
@[simp] theorem State.loadRegs_stack (x : RegNum) : (s.loadRegs x).stack = s.stack := rfl
@[simp] theorem State.loadRegs_sp (x : RegNum) : (s.loadRegs x).sp = s.sp := rfl
@[simp] theorem State.loadRegs_dt (x : RegNum) : (s.loadRegs x).dt = s.dt := rfl
@[simp] theorem State.loadRegs_st (x : RegNum) : (s.loadRegs x).st = s.st := rfl
@[simp] theorem State.loadRegs_mem (x : RegNum) : (s.loadRegs x).mem = s.mem := rfl
@[simp] theorem State.loadRegs_pix (x : RegNum) : (s.loadRegs x).pix = s.pix := rfl
@[simp] theorem State.loadRegs_key (x : RegNum) : (s.loadRegs x).key = s.key := rfl
@[simp] theorem State.loadRegs_rand (x : RegNum) : (s.loadRegs x).rand = s.rand := rfl
@[simp] theorem State.loadRegs_draws (x : RegNum) : (s.loadRegs x).draws = s.draws := rfl

/-! ## push -/

@[simp] theorem State.push_v (a : Word) (h : s.sp.val < 16) : (s.push a h).v = s.v := rfl
@[simp] theorem State.push_i (a : Word) (h : s.sp.val < 16) : (s.push a h).i = s.i := rfl
@[simp] theorem State.push_pc (a : Word) (h : s.sp.val < 16) : (s.push a h).pc = s.pc := rfl
@[simp] theorem State.push_stack (a : Word) (h : s.sp.val < 16) : (s.push a h).stack = s.stack.set s.sp.val a h := rfl
@[simp] theorem State.push_sp (a : Word) (h : s.sp.val < 16) : (s.push a h).sp = ⟨s.sp.val + 1, by omega⟩ := rfl
@[simp] theorem State.push_dt (a : Word) (h : s.sp.val < 16) : (s.push a h).dt = s.dt := rfl
@[simp] theorem State.push_st (a : Word) (h : s.sp.val < 16) : (s.push a h).st = s.st := rfl
@[simp] theorem State.push_mem (a : Word) (h : s.sp.val < 16) : (s.push a h).mem = s.mem := rfl
@[simp] theorem State.push_pix (a : Word) (h : s.sp.val < 16) : (s.push a h).pix = s.pix := rfl
@[simp] theorem State.push_key (a : Word) (h : s.sp.val < 16) : (s.push a h).key = s.key := rfl
@[simp] theorem State.push_rand (a : Word) (h : s.sp.val < 16) : (s.push a h).rand = s.rand := rfl
@[simp] theorem State.push_draws (a : Word) (h : s.sp.val < 16) : (s.push a h).draws = s.draws := rfl
@[simp] theorem State.reg_push (a : Word) (h : s.sp.val < 16) (r : RegNum) : (s.push a h).reg r = s.reg r := rfl

/-! ## pop -/

@[simp] theorem State.pop_v : (s.pop).v = s.v := rfl
@[simp] theorem State.pop_i : (s.pop).i = s.i := rfl
@[simp] theorem State.pop_pc : (s.pop).pc = s.pc := rfl
@[simp] theorem State.pop_stack : (s.pop).stack = s.stack := rfl
@[simp] theorem State.pop_sp : (s.pop).sp = ⟨s.sp.val - 1, by omega⟩ := rfl
@[simp] theorem State.pop_dt : (s.pop).dt = s.dt := rfl
@[simp] theorem State.pop_st : (s.pop).st = s.st := rfl
@[simp] theorem State.pop_mem : (s.pop).mem = s.mem := rfl
@[simp] theorem State.pop_pix : (s.pop).pix = s.pix := rfl
@[simp] theorem State.pop_key : (s.pop).key = s.key := rfl
@[simp] theorem State.pop_rand : (s.pop).rand = s.rand := rfl
@[simp] theorem State.pop_draws : (s.pop).draws = s.draws := rfl
@[simp] theorem State.reg_pop (r : RegNum) : (s.pop).reg r = s.reg r := rfl

/-! ## placeWord -/

@[simp] theorem State.placeWord_v (w : Word) : (s.placeWord w).v = s.v := rfl
@[simp] theorem State.placeWord_i (w : Word) : (s.placeWord w).i = s.i := rfl
@[simp] theorem State.placeWord_pc (w : Word) : (s.placeWord w).pc = s.pc := rfl
@[simp] theorem State.placeWord_stack (w : Word) : (s.placeWord w).stack = s.stack := rfl
@[simp] theorem State.placeWord_sp (w : Word) : (s.placeWord w).sp = s.sp := rfl
@[simp] theorem State.placeWord_dt (w : Word) : (s.placeWord w).dt = s.dt := rfl
@[simp] theorem State.placeWord_st (w : Word) : (s.placeWord w).st = s.st := rfl
@[simp] theorem State.placeWord_mem (w : Word) : (s.placeWord w).mem = s.mem.writeList s.pc.toNat [w.extractLsb' 8 8, w.extractLsb' 0 8] := rfl
@[simp] theorem State.placeWord_pix (w : Word) : (s.placeWord w).pix = s.pix := rfl
@[simp] theorem State.placeWord_key (w : Word) : (s.placeWord w).key = s.key := rfl
@[simp] theorem State.placeWord_rand (w : Word) : (s.placeWord w).rand = s.rand := rfl
@[simp] theorem State.placeWord_draws (w : Word) : (s.placeWord w).draws = s.draws := rfl
@[simp] theorem State.reg_placeWord (w : Word) (r : RegNum) : (s.placeWord w).reg r = s.reg r := rfl

/-! ## tickTimers -/

@[simp] theorem State.tickTimers_v : (s.tickTimers).v = s.v := rfl
@[simp] theorem State.tickTimers_i : (s.tickTimers).i = s.i := rfl
@[simp] theorem State.tickTimers_pc : (s.tickTimers).pc = s.pc := rfl
@[simp] theorem State.tickTimers_stack : (s.tickTimers).stack = s.stack := rfl
@[simp] theorem State.tickTimers_sp : (s.tickTimers).sp = s.sp := rfl
@[simp] theorem State.tickTimers_dt : (s.tickTimers).dt = if s.dt = 0 then 0 else s.dt - 1 := rfl
@[simp] theorem State.tickTimers_st : (s.tickTimers).st = if s.st = 0 then 0 else s.st - 1 := rfl
@[simp] theorem State.tickTimers_mem : (s.tickTimers).mem = s.mem := rfl
@[simp] theorem State.tickTimers_pix : (s.tickTimers).pix = s.pix := rfl
@[simp] theorem State.tickTimers_key : (s.tickTimers).key = s.key := rfl
@[simp] theorem State.tickTimers_rand : (s.tickTimers).rand = s.rand := rfl
@[simp] theorem State.tickTimers_draws : (s.tickTimers).draws = s.draws := rfl
@[simp] theorem State.reg_tickTimers (r : RegNum) : (s.tickTimers).reg r = s.reg r := rfl

/-! ## keySet -/

@[simp] theorem State.keySet_v (k : KeyNum) (down : Bool) : (s.keySet k down).v = s.v := rfl
@[simp] theorem State.keySet_i (k : KeyNum) (down : Bool) : (s.keySet k down).i = s.i := rfl
@[simp] theorem State.keySet_pc (k : KeyNum) (down : Bool) : (s.keySet k down).pc = s.pc := rfl
@[simp] theorem State.keySet_stack (k : KeyNum) (down : Bool) : (s.keySet k down).stack = s.stack := rfl
@[simp] theorem State.keySet_sp (k : KeyNum) (down : Bool) : (s.keySet k down).sp = s.sp := rfl
@[simp] theorem State.keySet_dt (k : KeyNum) (down : Bool) : (s.keySet k down).dt = s.dt := rfl
@[simp] theorem State.keySet_st (k : KeyNum) (down : Bool) : (s.keySet k down).st = s.st := rfl
@[simp] theorem State.keySet_mem (k : KeyNum) (down : Bool) : (s.keySet k down).mem = s.mem := rfl
@[simp] theorem State.keySet_pix (k : KeyNum) (down : Bool) : (s.keySet k down).pix = s.pix := rfl
@[simp] theorem State.keySet_key (k : KeyNum) (down : Bool) : (s.keySet k down).key = s.key.set k down := rfl
@[simp] theorem State.keySet_rand (k : KeyNum) (down : Bool) : (s.keySet k down).rand = s.rand := rfl
@[simp] theorem State.keySet_draws (k : KeyNum) (down : Bool) : (s.keySet k down).draws = s.draws := rfl
@[simp] theorem State.reg_keySet (k : KeyNum) (down : Bool) (r : RegNum) : (s.keySet k down).reg r = s.reg r := rfl

/-! ## withRand -/

@[simp] theorem State.withRand_v (b : Byte) : (s.withRand b).v = s.v := rfl
@[simp] theorem State.withRand_i (b : Byte) : (s.withRand b).i = s.i := rfl
@[simp] theorem State.withRand_pc (b : Byte) : (s.withRand b).pc = s.pc := rfl
@[simp] theorem State.withRand_stack (b : Byte) : (s.withRand b).stack = s.stack := rfl
@[simp] theorem State.withRand_sp (b : Byte) : (s.withRand b).sp = s.sp := rfl
@[simp] theorem State.withRand_dt (b : Byte) : (s.withRand b).dt = s.dt := rfl
@[simp] theorem State.withRand_st (b : Byte) : (s.withRand b).st = s.st := rfl
@[simp] theorem State.withRand_mem (b : Byte) : (s.withRand b).mem = s.mem := rfl
@[simp] theorem State.withRand_pix (b : Byte) : (s.withRand b).pix = s.pix := rfl
@[simp] theorem State.withRand_key (b : Byte) : (s.withRand b).key = s.key := rfl
@[simp] theorem State.withRand_rand (b : Byte) : (s.withRand b).rand = b :: s.rand := rfl
@[simp] theorem State.withRand_draws (b : Byte) : (s.withRand b).draws = s.draws := rfl
@[simp] theorem State.reg_withRand (b : Byte) (r : RegNum) : (s.withRand b).reg r = s.reg r := rfl

/-! ## takeRand: only the two random fields change -/

@[simp] theorem State.takeRand_v : s.takeRand.v = s.v := by
  unfold State.takeRand; split <;> rfl
@[simp] theorem State.takeRand_i : s.takeRand.i = s.i := by
  unfold State.takeRand; split <;> rfl
@[simp] theorem State.takeRand_pc : s.takeRand.pc = s.pc := by
  unfold State.takeRand; split <;> rfl
@[simp] theorem State.takeRand_stack : s.takeRand.stack = s.stack := by
  unfold State.takeRand; split <;> rfl
@[simp] theorem State.takeRand_sp : s.takeRand.sp = s.sp := by
  unfold State.takeRand; split <;> rfl
@[simp] theorem State.takeRand_dt : s.takeRand.dt = s.dt := by
  unfold State.takeRand; split <;> rfl
@[simp] theorem State.takeRand_st : s.takeRand.st = s.st := by
  unfold State.takeRand; split <;> rfl
@[simp] theorem State.takeRand_mem : s.takeRand.mem = s.mem := by
  unfold State.takeRand; split <;> rfl
@[simp] theorem State.takeRand_pix : s.takeRand.pix = s.pix := by
  unfold State.takeRand; split <;> rfl
@[simp] theorem State.takeRand_key : s.takeRand.key = s.key := by
  unfold State.takeRand; split <;> rfl
@[simp] theorem State.reg_takeRand (r : RegNum) : s.takeRand.reg r = s.reg r := by
  simp [State.reg]

theorem State.takeRand_cons {b : Byte} {bs : List Byte} (h : s.rand = b :: bs) :
    s.randByte = b ∧ s.takeRand = { s with rand := bs } := by
  simp [State.randByte, State.takeRand, h]

theorem State.takeRand_nil (h : s.rand = []) :
    s.randByte = Config.freeRand s.draws ∧ s.takeRand = { s with draws := s.draws + 1 } := by
  simp [State.randByte, State.takeRand, h]

end Sys2Proof.Machine
end

