-- ==== Sys2Proof/Laws/Ops.lean ====
section
/-! SUPPORT. One lemma per shared operation: everything it can answer, or everything it reads as. -/

namespace Sys2Proof.Machine

/-! ## Registers -/

theorem State.reg_setReg (s : State) (x r : RegNum) (b : Byte) :
    (s.setReg x b).reg r = if r = x then b else s.reg r := by
  simp [State.reg, Vector.getElem_set, Fin.ext_iff, eq_comm]

@[simp] theorem State.reg_setReg_same (s : State) (x : RegNum) (b : Byte) : (s.setReg x b).reg x = b := by
  simp [State.reg_setReg]

theorem State.reg_setReg_other (s : State) {x r : RegNum} (b : Byte) (h : r ≠ x) : (s.setReg x b).reg r = s.reg r := by
  simp [State.reg_setReg, h]

/-- The flag is written last: it is what `VF` holds, and the result is in `V[x]` unless `x` is 15. -/
theorem State.reg_setFlagged (s : State) (x r : RegNum) (f : Flagged) :
    (s.setFlagged x f).reg r = if r = vf then flagByte f.flag else if r = x then f.value else s.reg r := by
  simp [State.setFlagged, State.setFlag, State.reg_setReg]

theorem State.reg_setFlag (s : State) (r : RegNum) (b : Bool) :
    (s.setFlag b).reg r = if r = vf then flagByte b else s.reg r := State.reg_setReg ..

theorem State.reg_loadRegs (s : State) (x r : RegNum) :
    (s.loadRegs x).reg r = if r ≤ x then s.mem.read (s.i.toNat + r) else s.reg r := by
  simp [State.loadRegs, State.reg]

/-- A register reads the register file alone. -/
theorem State.reg_congr {s t : State} (h : t.v = s.v) (r : RegNum) : t.reg r = s.reg r := by
  simp [State.reg, h]

/-! ## Completing a step -/

@[simp] theorem State.goto_eq_next (s t : State) (a : Word) :
    s.goto a = .next t ↔ t = s.setPc a := by
  simp [State.goto, eq_comm]

@[simp] theorem State.advance_eq_next (s t : State) : s.advance = .next t ↔ t = s.setPc (s.pc + 2) := by
  simp [State.advance]

@[simp] theorem State.skipIf_eq_next (s t : State) (c : Bool) :
    s.skipIf c = .next t ↔ t = s.setPc (if c then s.pc + 4 else s.pc + 2) := by
  simp [State.skipIf]

@[simp] theorem State.goto_ne_fault (s : State) (a : Word) (f : Fault) : s.goto a ≠ .fault f := by simp [State.goto]

@[simp] theorem State.advance_ne_fault (s : State) (f : Fault) : s.advance ≠ .fault f := by simp [State.advance]

@[simp] theorem State.skipIf_ne_fault (s : State) (c : Bool) (f : Fault) : s.skipIf c ≠ .fault f := by simp [State.skipIf]

@[simp] theorem State.goto_ne_refused (s : State) (a : Word) (r : Refusal) : s.goto a ≠ .refused r := by simp [State.goto]

@[simp] theorem State.advance_ne_refused (s : State) (r : Refusal) : s.advance ≠ .refused r := by simp [State.advance]

@[simp] theorem State.skipIf_ne_refused (s : State) (c : Bool) (r : Refusal) : s.skipIf c ≠ .refused r := by
  simp [State.skipIf]

@[simp] theorem raise_ne_next (f : Fault) (t : State) : raise f ≠ .next t := by simp [raise]

@[simp] theorem raise_eq_fault (f g : Fault) : raise f = .fault g ↔ f = g := by simp [raise]

@[simp] theorem raise_ne_refused (f : Fault) (r : Refusal) : raise f ≠ .refused r := by simp [raise]

/-! ## The bounds test -/

theorem State.rangeFails_iff (s : State) (k : Nat) : s.rangeFails k = true ↔ 0 < k ∧ 4096 < s.i.toNat + k := by
  simp [State.rangeFails]

theorem State.rangeFails_eq_false_iff (s : State) (k : Nat) : s.rangeFails k = false ↔ s.RangeOk k := by
  simp [State.rangeFails, State.RangeOk]; omega

theorem State.guardRange_eq_next {s t : State} {k : Nat} {body : Result} :
    s.guardRange k body = .next t ↔ s.RangeOk k ∧ body = .next t := by
  unfold State.guardRange
  rw [← State.rangeFails_eq_false_iff]
  cases s.rangeFails k <;> simp

theorem State.guardRange_eq_fault {s : State} {k : Nat} {body : Result} {f : Fault} (hb : ∀ f, body ≠ .fault f) :
    s.guardRange k body = .fault f ↔ ¬s.RangeOk k ∧ f = .outOfBounds s.pc (max s.i.toNat 4096) := by
  unfold State.guardRange
  rw [← State.rangeFails_eq_false_iff]
  cases s.rangeFails k <;> simp [State.rangeFault, raise, hb, eq_comm]

theorem State.guardRange_of_ok {s : State} {k : Nat} (h : s.RangeOk k) (body : Result) : s.guardRange k body = body := by
  rw [← State.rangeFails_eq_false_iff] at h; simp [State.guardRange, h]

theorem State.guardRange_of_fails {s : State} {k : Nat} (h : ¬s.RangeOk k) (body : Result) :
    s.guardRange k body = .fault (.outOfBounds s.pc (max s.i.toNat 4096)) := by
  rw [← State.rangeFails_eq_false_iff, Bool.not_eq_false] at h; simp [State.guardRange, h, raise, State.rangeFault]

/-! ## Operands -/

@[simp] theorem zextAddr_toNat (nnn : Addr12) : (zextAddr nnn).toNat = nnn.toNat := by
  simp [zextAddr]; omega

@[simp] theorem zextByte_toNat (b : Byte) : (zextByte b).toNat = b.toNat := by
  simp [zextByte]; omega

@[simp] theorem State.regsUpTo_length (s : State) (x : RegNum) : (s.regsUpTo x).length = x.val + 1 := by
  simp [State.regsUpTo]

theorem State.regsUpTo_getElem (s : State) (x : RegNum) (j : Nat) (h : j < (s.regsUpTo x).length) :
    (s.regsUpTo x)[j] = s.reg ⟨j, by simp at h; omega⟩ := by
  simp [State.regsUpTo, State.reg]

@[simp] theorem bcdDigits_length (v : Byte) : (bcdDigits v).length = 3 := rfl

/-! ## Flags -/

theorem isFlag_flagByte (b : Bool) {p : Prop} (h : b = true ↔ p) : IsFlag (flagByte b) p := by
  cases b <;> simp_all [IsFlag, flagByte]

/-- Bit 0 as the remainder, bit 7 as the top half: the bits the shifts put in the flag. -/
theorem byte_bit0 (a : Byte) : a.getLsbD 0 = decide (a.toNat % 2 = 1) := Nat.testBit_zero a.toNat

theorem byte_bit7 (a : Byte) : a.getLsbD 7 = decide (128 ≤ a.toNat) := by
  simpa [BitVec.msb, BitVec.getMsbD] using BitVec.msb_eq_decide a

/-! ## Frames -/

theorem RegsKeptBut.setReg (s : State) (x : RegNum) (b : Byte) (a : Word) : RegsKeptBut [x] s ((s.setReg x b).setPc a) := by
  intro r hr
  exact State.reg_setReg_other s b (by simpa using hr)

theorem RegsKeptBut.setFlagged (s : State) (x : RegNum) (f : Flagged) (a : Word) :
    RegsKeptBut [x, vf] s ((s.setFlagged x f).setPc a) := by
  intro r hr
  simp only [List.mem_cons, List.not_mem_nil, or_false, not_or] at hr
  simp [State.reg_setFlagged, hr]

/-- A frame, part by part: the form `simp` decides. -/
theorem keptBut_iff (l : List Part) (s t : State) :
    KeptBut l s t ↔
      (.regs ∈ l ∨ ∀ r, t.reg r = s.reg r) ∧ (.i ∈ l ∨ t.i = s.i) ∧ (.pc ∈ l ∨ t.pc = s.pc) ∧
      (.stack ∈ l ∨ t.stack = s.stack) ∧ (.sp ∈ l ∨ t.sp = s.sp) ∧ (.dt ∈ l ∨ t.dt = s.dt) ∧
      (.st ∈ l ∨ t.st = s.st) ∧ (.mem ∈ l ∨ ∀ a, t.mem.read a = s.mem.read a) ∧ (.pix ∈ l ∨ t.pix = s.pix) ∧
      (.key ∈ l ∨ t.key = s.key) ∧ (.rand ∈ l ∨ t.rand = s.rand) ∧ (.draws ∈ l ∨ t.draws = s.draws) := by
  constructor
  · intro h
    refine ⟨?_, ?_, ?_, ?_, ?_, ?_, ?_, ?_, ?_, ?_, ?_, ?_⟩ <;> exact or_iff_not_imp_left.2 fun hp => h _ hp
  · rintro ⟨h1, h2, h3, h4, h5, h6, h7, h8, h9, h10, h11, h12⟩ p hp
    cases p <;> simp_all [Part.same]

theorem KeptBut.refl (l : List Part) (s : State) : KeptBut l s s := by
  intro p _; cases p <;> simp [Part.same]

end Sys2Proof.Machine
end

