-- ==== Sys2Proof/Laws/Display.lean ====
section
/-! SUPPORT. The pixel plane: what a flip, one bit and one row of a sprite do to every pixel and to the collision flag. -/

namespace Sys2Proof.Machine

theorem Plane.pixel_flip (p : Plane) (row row' : Fin 32) (col col' : Fin 64) :
    (p.flip row col).pixel row' col' =
      if row' = row ∧ col' = col then !p.pixel row col else p.pixel row' col' := by
  simp only [Plane.pixel, Plane.flip, Fin.getElem_fin, Vector.getElem_set, Fin.ext_iff]
  by_cases hr : row.val = row'.val
  · by_cases hc : col.val = col'.val <;> simp [hr, hc, eq_comm]
  · simp [hr, Ne.symm hr]

@[simp] theorem Plane.pixel_clear (row : Fin 32) (col : Fin 64) : Plane.clear.pixel row col = false := by
  simp [Plane.pixel, Plane.clear]

/-- Two planes with the same pixels are the same plane. -/
theorem Plane.ext_pixel {p q : Plane} (h : ∀ row col, p.pixel row col = q.pixel row col) : p = q := by
  refine Vector.ext fun r hr => Vector.ext fun c hc => ?_
  simpa [Plane.pixel] using h ⟨r, hr⟩ ⟨c, hc⟩

/-- One bit of a sprite: its pixel is XORed with the bit, and the collision notes a 1 that met a 1. -/
theorem Blit.bit_spec (bit : Bool) (row : Fin 32) (col : Fin 64) (d : Blit) :
    (∀ row' col', (d.bit bit row col).plane.pixel row' col' =
      (d.plane.pixel row' col' != (bit && decide (row' = row ∧ col' = col)))) ∧
    (d.bit bit row col).collision = (d.collision || (bit && d.plane.pixel row col)) := by
  cases bit
  · simp [Blit.bit]
  · refine ⟨fun row' col' => ?_, by simp [Blit.bit]⟩
    simp only [Blit.bit, if_true, Plane.pixel_flip, Bool.true_and]
    split
    · rename_i h; obtain ⟨rfl, rfl⟩ := h; simp
    · rename_i h; simp [h]

/-- Any run of sprite columns that land on different pixels. -/
theorem Blit.columns_spec (x0 : Nat) (row : Fin 32) (b : Byte) : ∀ (cs : List Nat) (d : Blit), (cs.map (wrapCol x0)).Nodup →
    (∀ row' col', (cs.foldl (fun d c => d.bit (spriteBit b c) row (wrapCol x0 c)) d).plane.pixel row' col' =
      (d.plane.pixel row' col' !=
        (decide (row' = row) && cs.any fun c => spriteBit b c && decide (col' = wrapCol x0 c)))) ∧
    (cs.foldl (fun d c => d.bit (spriteBit b c) row (wrapCol x0 c)) d).collision =
      (d.collision || cs.any fun c => spriteBit b c && d.plane.pixel row (wrapCol x0 c)) := by
  intro cs
  induction cs with
  | nil => intro d _; simp
  | cons c cs ih =>
    intro d hn
    simp only [List.map_cons, List.nodup_cons] at hn
    obtain ⟨h1, h2⟩ := ih (d.bit (spriteBit b c) row (wrapCol x0 c)) hn.2
    obtain ⟨b1, b2⟩ := Blit.bit_spec (spriteBit b c) row (wrapCol x0 c) d
    have other : ∀ c' ∈ cs, wrapCol x0 c' ≠ wrapCol x0 c := fun c' hc' h => hn.1 (h ▸ List.mem_map_of_mem hc')
    constructor
    · intro row' col'
      rw [List.foldl_cons, h1, b1]
      by_cases hr : row' = row
      · by_cases hc : col' = wrapCol x0 c
        · have : (cs.any fun c' => spriteBit b c' && decide (wrapCol x0 c = wrapCol x0 c')) = false := by
            simpa [List.any_eq_false] using fun c' hc' _ h => other c' hc' h.symm
          simp [hr, hc, this]
        · simp [hr, hc]
      · simp [hr]
    · rw [List.foldl_cons, h2, b2]
      simp only [List.any_cons, b1, Bool.or_assoc]
      congr 2
      rw [Bool.eq_iff_iff]
      simp only [List.any_eq_true]
      refine exists_congr fun c' => and_congr_right fun hc' => ?_
      simp [other c' hc']

/-- One row of a sprite: each of its eight pixels is XORed with its bit, and the collision notes every 1 that met a 1. The eight
columns are different ones, wherever they wrap. -/
theorem Blit.row_spec (x0 : Nat) (row : Fin 32) (b : Byte) (d : Blit) :
    (∀ row' col', (d.row x0 row b).plane.pixel row' col' =
      (d.plane.pixel row' col' !=
        (decide (row' = row) && (List.range 8).any fun c => spriteBit b c && decide (col' = wrapCol x0 c)))) ∧
    (d.row x0 row b).collision =
      (d.collision || (List.range 8).any fun c => spriteBit b c && d.plane.pixel row (wrapCol x0 c)) := by
  refine Blit.columns_spec x0 row b (List.range 8) d ?_
  simp only [List.range, List.range.loop, List.map_cons, List.map_nil, wrapCol]
  simp [Fin.ext_iff]; omega

end Sys2Proof.Machine
end

