-- ==== Sys2Proof/Laws/PerInstr.lean ====
section
/-! SUPPORT. The family EncodesToItsRow: the word of an instruction, whatever its operands, selects its own row of the opcode map
(spec/30_encoding.md R95). -/

namespace Sys2Proof.Laws.EncodesToItsRow

/-- The instruction's word selects the row of the map with the instruction's tag. -/
def Statement (i : Instr) : Prop := ∃ r ∈ opcodeMap, r.mnemonic = i.mnemonic ∧ r.selects (encode i) = true

theorem and_ones4 (b : BitVec 4) : b &&& 15#4 = b := BitVec.and_allOnes

theorem and_ones8 (b : Byte) : b &&& 255#8 = b := BitVec.and_allOnes

/-! ## What the four masks leave of a built word -/

theorem nnn_and_F000 (f : BitVec 4) (nnn : Addr12) : wordNNN f nnn &&& 0xF000#16 = f ++ 0#12 := by
  rw [wordNNN, show 0xF000#16 = 0xF#4 ++ 0#12 from rfl, BitVec.and_append]
  simp [and_ones4]

theorem xkk_and_F000 (f : BitVec 4) (x : RegNum) (kk : Byte) : wordXKK f x kk &&& 0xF000#16 = f ++ 0#4 ++ 0#8 := by
  rw [wordXKK, show 0xF000#16 = 0xF#4 ++ 0#4 ++ 0#8 from rfl, BitVec.and_append, BitVec.and_append]
  simp [and_ones4]

theorem xkk_and_F0FF (f : BitVec 4) (x : RegNum) (kk : Byte) : wordXKK f x kk &&& 0xF0FF#16 = f ++ 0#4 ++ kk := by
  rw [wordXKK, show 0xF0FF#16 = 0xF#4 ++ 0#4 ++ 0xFF#8 from rfl, BitVec.and_append, BitVec.and_append]
  simp [and_ones4, and_ones8]

theorem xyn_and_F000 (f : BitVec 4) (x y : RegNum) (n : BitVec 4) :
    wordXYN f x y n &&& 0xF000#16 = f ++ 0#4 ++ 0#4 ++ 0#4 := by
  rw [wordXYN, show 0xF000#16 = 0xF#4 ++ 0#4 ++ 0#4 ++ 0#4 from rfl, BitVec.and_append, BitVec.and_append,
    BitVec.and_append]
  simp [and_ones4]

theorem xyn_and_F00F (f : BitVec 4) (x y : RegNum) (n : BitVec 4) :
    wordXYN f x y n &&& 0xF00F#16 = f ++ 0#4 ++ 0#4 ++ n := by
  rw [wordXYN, show 0xF00F#16 = 0xF#4 ++ 0#4 ++ 0#4 ++ 0xF#4 from rfl, BitVec.and_append, BitVec.and_append,
    BitVec.and_append]
  simp [and_ones4]

/-- Row `k` of the map. -/
abbrev opcodeRow (k : Fin 34) : OpcodeRow := opcodeMap[k.val]'k.isLt

/-- A row of the map whose fixed bits stand in the word is selected. -/
theorem of_row {i : Instr} (k : Fin 34) (hm : (opcodeRow k).mnemonic = i.mnemonic)
    (hs : encode i &&& (opcodeRow k).mask = (opcodeRow k).value) : Statement i :=
  ⟨(opcodeRow k), List.getElem_mem _, hm, by simpa [OpcodeRow.selects] using hs⟩

/-! ## One lemma per instruction: the row's place in the map and the mask it looks through -/

theorem cls : Statement .cls := of_row 0 rfl rfl
theorem ret : Statement .ret := of_row 1 rfl rfl
theorem jump (nnn : Addr12) : Statement (.jump nnn) := of_row 2 rfl (nnn_and_F000 ..)
theorem call (nnn : Addr12) : Statement (.call nnn) := of_row 3 rfl (nnn_and_F000 ..)
theorem skipEqConst (x : RegNum) (kk : Byte) : Statement (.skipEqConst x kk) := of_row 4 rfl (xkk_and_F000 ..)
theorem skipNeqConst (x : RegNum) (kk : Byte) : Statement (.skipNeqConst x kk) := of_row 5 rfl (xkk_and_F000 ..)
theorem skipEqReg (x y : RegNum) : Statement (.skipEqReg x y) := of_row 6 rfl (xyn_and_F00F ..)
theorem loadConst (x : RegNum) (kk : Byte) : Statement (.loadConst x kk) := of_row 7 rfl (xkk_and_F000 ..)
theorem addConst (x : RegNum) (kk : Byte) : Statement (.addConst x kk) := of_row 8 rfl (xkk_and_F000 ..)
theorem move (x y : RegNum) : Statement (.move x y) := of_row 9 rfl (xyn_and_F00F ..)
theorem or (x y : RegNum) : Statement (.or x y) := of_row 10 rfl (xyn_and_F00F ..)
theorem and (x y : RegNum) : Statement (.and x y) := of_row 11 rfl (xyn_and_F00F ..)
theorem xor (x y : RegNum) : Statement (.xor x y) := of_row 12 rfl (xyn_and_F00F ..)
theorem add (x y : RegNum) : Statement (.add x y) := of_row 13 rfl (xyn_and_F00F ..)
theorem sub (x y : RegNum) : Statement (.sub x y) := of_row 14 rfl (xyn_and_F00F ..)
theorem shiftRight (x : RegNum) : Statement (.shiftRight x) := of_row 15 rfl (xyn_and_F00F ..)
theorem subN (x y : RegNum) : Statement (.subN x y) := of_row 16 rfl (xyn_and_F00F ..)
theorem shiftLeft (x : RegNum) : Statement (.shiftLeft x) := of_row 17 rfl (xyn_and_F00F ..)
theorem skipNeqReg (x y : RegNum) : Statement (.skipNeqReg x y) := of_row 18 rfl (xyn_and_F000 ..)
theorem setIndex (nnn : Addr12) : Statement (.setIndex nnn) := of_row 19 rfl (nnn_and_F000 ..)
theorem jumpOffset (nnn : Addr12) : Statement (.jumpOffset nnn) := of_row 20 rfl (nnn_and_F000 ..)
theorem random (x : RegNum) (kk : Byte) : Statement (.random x kk) := of_row 21 rfl (xkk_and_F000 ..)
theorem draw (x y : RegNum) (n : Fin 16) : Statement (.draw x y n) := of_row 22 rfl (xyn_and_F000 ..)
theorem skipKey (x : RegNum) : Statement (.skipKey x) := of_row 23 rfl (xkk_and_F0FF ..)
theorem skipNotKey (x : RegNum) : Statement (.skipNotKey x) := of_row 24 rfl (xkk_and_F0FF ..)
theorem loadDelay (x : RegNum) : Statement (.loadDelay x) := of_row 25 rfl (xkk_and_F0FF ..)
theorem waitKeyPress (x : RegNum) : Statement (.waitKeyPress x) := of_row 26 rfl (xkk_and_F0FF ..)
theorem setDelay (x : RegNum) : Statement (.setDelay x) := of_row 27 rfl (xkk_and_F0FF ..)
theorem setSound (x : RegNum) : Statement (.setSound x) := of_row 28 rfl (xkk_and_F0FF ..)
theorem addIndex (x : RegNum) : Statement (.addIndex x) := of_row 29 rfl (xkk_and_F0FF ..)
theorem spriteAddr (x : RegNum) : Statement (.spriteAddr x) := of_row 30 rfl (xkk_and_F0FF ..)
theorem bcd (x : RegNum) : Statement (.bcd x) := of_row 31 rfl (xkk_and_F0FF ..)
theorem store (x : RegNum) : Statement (.store x) := of_row 32 rfl (xkk_and_F0FF ..)
theorem load (x : RegNum) : Statement (.load x) := of_row 33 rfl (xkk_and_F0FF ..)

end Sys2Proof.Laws.EncodesToItsRow
end

