-- ==== Sys2Proof/Laws/WellFormed.lean ====
section
/-! SUPPORT. Every instruction is well-formed: its operands fit their fields by their types. -/

namespace Sys2Proof

theorem Operand.wellFormed_reg (x : RegNum) : (Operand.reg x).wellFormed = true := by
  simp [Operand.wellFormed]

theorem Operand.wellFormed_rows (n : Fin 16) : (Operand.rows n).wellFormed = true := by
  simp [Operand.wellFormed]

theorem Operand.wellFormed_const (kk : Byte) : (Operand.const kk.toNat).wellFormed = true := by
  simp [Operand.wellFormed, kk.isLt]

theorem Operand.wellFormed_addr (nnn : Addr12) : (Operand.addr nnn.toNat).wellFormed = true := by
  simp [Operand.wellFormed, nnn.isLt]

theorem Instr.wellFormed_all (i : Instr) : i.wellFormed = true := by
  cases i <;> simp [Instr.wellFormed, Instr.operands, Operand.wellFormed_reg, Operand.wellFormed_rows,
    Operand.wellFormed_const, Operand.wellFormed_addr]

end Sys2Proof
end

