-- ==== Sys2Proof/Machine/Assembly.lean ====
section
/-! DEFINITION. The spec's own notation for programs (spec/30_encoding.md R95 column `asm`, R100 to R102): the text of an
instruction, the two data directives, and the bytes of a list of statements. No meaning uses it: log 23. -/

namespace Sys2Proof

/-- One hexadecimal digit, in capitals. -/
def hexDigit (d : Nat) : String :=
  ["0", "1", "2", "3", "4", "5", "6", "7", "8", "9", "A", "B", "C", "D", "E", "F"].getD (d % 16) "0"

/-- `k` hexadecimal digits, the most significant first. -/
def hexDigits : Nat → Nat → String
  | 0, _ => ""
  | k + 1, v => hexDigits k (v / 16) ++ hexDigit v

/-- `V0` … `VF` (R100). -/
def regText (x : RegNum) : String := "V" ++ hexDigit x.val

/-- A number in the notation of spec/00_scope.md R8. -/
def byteText (b : Byte) : String := "0x" ++ hexDigits 2 b.toNat

/-- An address in that notation. -/
def addrText (a : Addr12) : String := "0x" ++ hexDigits 3 a.toNat

/-- `OP Vx, Vy` -/
def textXY (op : String) (x y : RegNum) : String := op ++ " " ++ regText x ++ ", " ++ regText y

/-- `OP Vx, kk` -/
def textXKK (op : String) (x : RegNum) (kk : Byte) : String := op ++ " " ++ regText x ++ ", " ++ byteText kk

/-- The statement that spells an instruction; "the destination comes first" (R100). -/
def Instr.text : Instr → String
  | .cls => "CLS"
  | .ret => "RET"
  | .jump nnn => "JP " ++ addrText nnn
  | .call nnn => "CALL " ++ addrText nnn
  | .skipEqConst x kk => textXKK "SE" x kk
  | .skipNeqConst x kk => textXKK "SNE" x kk
  | .skipEqReg x y => textXY "SE" x y
  | .loadConst x kk => textXKK "LD" x kk
  | .addConst x kk => textXKK "ADD" x kk
  | .move x y => textXY "LD" x y
  | .or x y => textXY "OR" x y
  | .and x y => textXY "AND" x y
  | .xor x y => textXY "XOR" x y
  | .add x y => textXY "ADD" x y
  | .sub x y => textXY "SUB" x y
  | .shiftRight x => "SHR " ++ regText x
  | .subN x y => textXY "SUBN" x y
  | .shiftLeft x => "SHL " ++ regText x
  | .skipNeqReg x y => textXY "SNE" x y
  | .setIndex nnn => "LD I, " ++ addrText nnn
  | .jumpOffset nnn => "JP V0, " ++ addrText nnn
  | .random x kk => textXKK "RND" x kk
  | .draw x y n => textXY "DRW" x y ++ ", 0x" ++ hexDigit n.val
  | .skipKey x => "SKP " ++ regText x
  | .skipNotKey x => "SKNP " ++ regText x
  | .loadDelay x => "LD " ++ regText x ++ ", DT"
  | .waitKeyPress x => "LD " ++ regText x ++ ", K"
  | .setDelay x => "LD DT, " ++ regText x
  | .setSound x => "LD ST, " ++ regText x
  | .addIndex x => "ADD I, " ++ regText x
  | .spriteAddr x => "LD F, " ++ regText x
  | .bcd x => "LD B, " ++ regText x
  | .store x => "LD [I], " ++ regText x
  | .load x => "LD " ++ regText x ++ ", [I]"

/-- The two bytes of a word, the upper byte at the lower address. -/
def wordBytes (w : Word) : List Byte := [w.extractLsb' 8 8, w.extractLsb' 0 8]

/-- A statement of a program: an instruction, or one of the two directives (R102). -/
inductive Statement where
  | instr (i : Instr)
  /-- `DB b0, b1, …` -/
  | db (bytes : List Byte)
  /-- `DW w`, big-endian -/
  | dw (w : Word)
deriving DecidableEq, Repr

/-- The bytes of a statement (R101, R102). -/
def Statement.bytes : Statement → List Byte
  | .instr i => wordBytes (encode i)
  | .db bytes => bytes
  | .dw w => wordBytes w

/-- The bytes of a program, the first at address 512 once loaded. -/
def assemble (statements : List Statement) : List Byte := statements.flatMap Statement.bytes

end Sys2Proof
end

