-- ==== Sys2Proof/Tests/Slice0.lean ====
section
/-! SUPPORT. The model's own tests. Expected results are the spec's vectors (spec/95_test_vectors.md, by their ids T, F, A, M, G, K, X),
never the model's answers. Then one witness for the hypotheses of each obligation that has any. -/

namespace Sys2Proof.Tests

open Sys2Proof Sys2Proof.Machine

/-! ## Helpers -/

/-- The state one step after reset with the given changes, the word under test at `PC`. -/
def after (s : State) (w : Nat) : Option State :=
  match step (s.withFetchWord 16 w) with
  | .next t => some t
  | .fault _ => none
  | .refused _ => none

/-- The error of that step. -/
def errorOf (s : State) (w : Nat) : Option Fault :=
  match step (s.withFetchWord 16 w) with
  | .next _ => none
  | .fault f => some f
  | .refused _ => none

/-- Reset, with registers set. -/
def withRegs (rs : List (RegNum × Byte)) : State := rs.foldl (fun s r => s.setReg r.1 r.2) State.reset

/-- A state with `I` and some memory set. -/
def withMem (s : State) (i : Word) (bytes : List Byte) : State :=
  { s with i := i, mem := s.mem.writeList i.toNat bytes }

/-- A state with keys down. -/
def withKeys (s : State) (ks : List KeyNum) : State := ks.foldl (fun t k => t.keySet k true) s

/-- A state with pixels (row, column) set. -/
def withPixels (s : State) (ps : List (Fin 32 × Fin 64)) : State :=
  ps.foldl (fun t p => t.setPix (t.pix.flip p.1 p.2)) s

/-- The columns set in a row of the plane. -/
def columns (s : State) (row : Fin 32) : List Nat := ((List.finRange 64).filter fun c => s.pix.pixel row c).map Fin.val

/-- How many pixels are set. -/
def pixelCount (s : State) : Nat := (s.displayRead.filter id).length

/-! ## WellFormed: one ill-formed operand for each check, and the largest good one -/

theorem test_wf_reg : (Operand.reg 16).wellFormed = false ∧ (Operand.reg 15).wellFormed = true := by decide
theorem test_wf_rows : (Operand.rows 16).wellFormed = false ∧ (Operand.rows 15).wellFormed = true := by decide
theorem test_wf_const : (Operand.const 256).wellFormed = false ∧ (Operand.const 255).wellFormed = true := by decide
theorem test_wf_addr : (Operand.addr 4096).wellFormed = false ∧ (Operand.addr 4095).wellFormed = true := by decide

/-! ## Decoding: the words of 95 section 2.1 and T8, bit by bit for the families -/

theorem test_decode_family0 : decode 0b0000000011100000 = .ok .cls ∧ decode 0b0000000011101110 = .ok .ret := by decide
theorem test_decode_jump : decode 0b0001101010111100 = .ok (.jump 0xABC) ∧ decode 0x10EE = .ok (.jump 0x0EE) := by decide
theorem test_decode_call : decode 0b0010111111111111 = .ok (.call 0xFFF) := by decide
theorem test_decode_skips : decode 0b0011001111101110 = .ok (.skipEqConst 3 0xEE) ∧
    decode 0b0100101000000001 = .ok (.skipNeqConst 10 0x01) ∧ decode 0b0101000100100000 = .ok (.skipEqReg 1 2) := by decide
theorem test_decode_skipNeqReg : decode 0b1001000100100000 = .ok (.skipNeqReg 1 2) ∧
    decode 0x912F = .ok (.skipNeqReg 1 2) := by decide
theorem test_decode_consts : decode 0b0110101111001101 = .ok (.loadConst 11 0xCD) ∧
    decode 0b0111111000010000 = .ok (.addConst 14 0x10) := by decide
theorem test_decode_move_logic : decode 0b1000000100100000 = .ok (.move 1 2) ∧ decode 0b1000000100100001 = .ok (.or 1 2) ∧
    decode 0b1000000100100010 = .ok (.and 1 2) ∧ decode 0b1000000100100011 = .ok (.xor 1 2) := by decide
theorem test_decode_add_sub : decode 0b1000000100100100 = .ok (.add 1 2) ∧ decode 0b1000000000010101 = .ok (.sub 0 1) ∧
    decode 0b1000000000010111 = .ok (.subN 0 1) := by decide
theorem test_decode_shifts : decode 0b1000101010110110 = .ok (.shiftRight 10) ∧ decode 0x8A06 = .ok (.shiftRight 10) ∧
    decode 0b1000101010111110 = .ok (.shiftLeft 10) := by decide
theorem test_decode_families_ABCD : decode 0b1010000100100011 = .ok (.setIndex 0x123) ∧
    decode 0b1011111111111111 = .ok (.jumpOffset 0xFFF) ∧ decode 0b1100001111110000 = .ok (.random 3 0xF0) ∧
    decode 0b1101000000001111 = .ok (.draw 0 0 15) ∧ decode 0xD120 = .ok (.draw 1 2 0) := by decide
theorem test_decode_familyE : decode 0b1110000110011110 = .ok (.skipKey 1) ∧
    decode 0b1110000110100001 = .ok (.skipNotKey 1) := by decide
theorem test_decode_timers : decode 0b1111000100000111 = .ok (.loadDelay 1) ∧
    decode 0b1111000100001010 = .ok (.waitKeyPress 1) ∧ decode 0b1111000100010101 = .ok (.setDelay 1) ∧
    decode 0b1111000100011000 = .ok (.setSound 1) := by decide
theorem test_decode_index : decode 0b1111000100011110 = .ok (.addIndex 1) ∧
    decode 0b1111000100101001 = .ok (.spriteAddr 1) ∧ decode 0b1111000100110011 = .ok (.bcd 1) ∧
    decode 0b1111000101010101 = .ok (.store 1) ∧ decode 0b1111000101100101 = .ok (.load 1) ∧
    decode 0xFF65 = .ok (.load 15) := by decide
theorem test_reject_family0 : decode 0x0000 = .error .family0 ∧ decode 0x00E1 = .error .family0 ∧
    decode 0x01E0 = .error .family0 ∧ decode 0x0FFF = .error .family0 := by decide
theorem test_reject_family5 : decode 0x5121 = .error .family5 ∧ decode 0x512F = .error .family5 := by decide
theorem test_reject_family8 : decode 0x80A9 = .error .family8 ∧ decode 0x8AB8 = .error .family8 ∧
    decode 0x8ABA = .error .family8 ∧ decode 0x8ABB = .error .family8 ∧ decode 0x8ABC = .error .family8 ∧
    decode 0x8ABD = .error .family8 ∧ decode 0x8ABF = .error .family8 := by decide
theorem test_reject_familyE : decode 0xE19F = .error .familyE ∧ decode 0xE100 = .error .familyE := by decide
theorem test_reject_familyF : decode 0xF100 = .error .familyF ∧ decode 0xF175 = .error .familyF ∧
    decode 0xF185 = .error .familyF ∧ decode 0xF1FF = .error .familyF ∧ decode 0xFFFF = .error .familyF := by decide

/-! ## Flow -/

theorem test_jump_F1 : (after State.reset 0x1ABC).map (·.pc) = some 2748 := by decide
theorem test_call_F3 : (after State.reset 0x2345).map (fun t => (t.pc, t.sp.val, t.stack[0])) = some (0x345, 1, 0x202) := by
  decide
theorem test_call_F5 : errorOf { State.reset with sp := 16 } 0x2345 = some (.stackOverflow 0x200) := by decide
theorem test_ret_F8 : (after { State.reset with sp := 16, stack := State.reset.stack.set 15 0xABC } 0x00EE).map
    (fun t => (t.pc, t.sp.val)) = some (0xABC, 15) := by decide
theorem test_ret_F7 : errorOf State.reset 0x00EE = some (.stackUnderflow 0x200) := by decide
theorem test_skipEqConst_F9_F10 : (after (withRegs [(3, 0xEE)]) 0x33EE).map (·.pc) = some 0x204 ∧
    (after (withRegs [(3, 0xED)]) 0x33EE).map (·.pc) = some 0x202 := by decide
theorem test_skipNeqConst_F11_F12 : (after (withRegs [(3, 0xED)]) 0x43EE).map (·.pc) = some 0x204 ∧
    (after (withRegs [(3, 0xEE)]) 0x43EE).map (·.pc) = some 0x202 := by decide
theorem test_skipEqReg_F13_F14 : (after (withRegs [(1, 7), (2, 7)]) 0x5120).map (·.pc) = some 0x204 ∧
    (after (withRegs [(1, 7), (2, 8)]) 0x5120).map (·.pc) = some 0x202 := by decide
theorem test_skipNeqReg_F18_F17 : (after (withRegs [(1, 7), (2, 8)]) 0x912F).map (·.pc) = some 0x204 ∧
    (after (withRegs [(1, 7), (2, 7)]) 0x912F).map (·.pc) = some 0x202 := by decide
theorem test_jumpOffset_F20 : (after (withRegs [(0, 0xFF)]) 0xBFFF).map (·.pc) = some 4350 := by decide

/-- F22, X1: the fetch limit, and the step right after reset. -/
theorem test_fetch_limit_F22 : stepOutput { State.reset with pc := 4094 } = some ⟨.error (.outOfBounds 4094 4094), false⟩ ∧
    stepOutput State.reset = some ⟨.error (.decodeError 0x200 0), false⟩ := by decide

/-- F24, F25: the last word a fetch reaches, and an odd `PC`. -/
theorem test_fetch_odd_F24_F25 : (after { State.reset with pc := 4093 } 0x1200).map (·.pc) = some 0x200 ∧
    (after { State.reset with pc := 0x201 } 0x6122).map (fun t => (t.reg 1, t.pc)) = some (0x22, 0x203) := by decide

/-! ## ALU: (result, VF) -/

theorem test_loadConst_A1 : (after State.reset 0x64FF).map (·.reg 4) = some 255 := by decide
theorem test_addConst_A2_A3 : (after (withRegs [(4, 255), (15, 7)]) 0x7402).map (fun t => (t.reg 4, t.reg 15)) = some (1, 7) ∧
    (after (withRegs [(15, 0xFE)]) 0x7F03).map (·.reg 15) = some 1 := by decide
theorem test_move_A4 : (after (withRegs [(1, 5), (2, 9), (15, 3)]) 0x8120).map (fun t => (t.reg 1, t.reg 15)) = some (9, 3) := by
  decide
theorem test_or_A5 : (after (withRegs [(1, 0xF0), (2, 0x0F), (15, 3)]) 0x8121).map (fun t => (t.reg 1, t.reg 15)) =
    some (0xFF, 3) := by decide
theorem test_and_A6 : (after (withRegs [(1, 0xF3), (2, 0x3F), (15, 3)]) 0x8122).map (fun t => (t.reg 1, t.reg 15)) =
    some (0x33, 3) := by decide
theorem test_xor_A7 : (after (withRegs [(1, 0xFF), (2, 0x0F), (15, 3)]) 0x8123).map (fun t => (t.reg 1, t.reg 15)) =
    some (0xF0, 3) := by decide
theorem test_add_A9_A11 : (after (withRegs [(1, 200), (2, 200)]) 0x8124).map (fun t => (t.reg 1, t.reg 15)) = some (144, 1) ∧
    (after (withRegs [(1, 254), (2, 1), (15, 1)]) 0x8124).map (fun t => (t.reg 1, t.reg 15)) = some (255, 0) := by decide
theorem test_add_A13_A14 : (after (withRegs [(15, 200), (2, 100)]) 0x8F24).map (·.reg 15) = some 1 ∧
    (after (withRegs [(1, 1), (15, 255)]) 0x81F4).map (fun t => (t.reg 1, t.reg 15)) = some (0, 1) := by decide
theorem test_sub_A15_A16 : (after (withRegs [(0, 0), (1, 1)]) 0x8015).map (fun t => (t.reg 0, t.reg 15)) = some (255, 0) ∧
    (after (withRegs [(0, 1), (1, 1)]) 0x8015).map (fun t => (t.reg 0, t.reg 15)) = some (0, 1) := by decide
theorem test_sub_A20_A21 : (after (withRegs [(15, 5), (1, 3)]) 0x8F15).map (·.reg 15) = some 1 ∧
    (after (withRegs [(15, 3), (1, 5)]) 0x8F15).map (·.reg 15) = some 0 := by decide
theorem test_subN_A22_A23 : (after (withRegs [(0, 3), (1, 5)]) 0x8017).map (fun t => (t.reg 0, t.reg 15)) = some (2, 1) ∧
    (after (withRegs [(0, 5), (1, 3)]) 0x8017).map (fun t => (t.reg 0, t.reg 15)) = some (254, 0) := by decide
theorem test_shiftRight_A26_A27 : (after (withRegs [(2, 4), (15, 1)]) 0x8206).map (fun t => (t.reg 2, t.reg 15)) = some (2, 0) ∧
    (after (withRegs [(2, 0xFF)]) 0x8276).map (fun t => (t.reg 2, t.reg 7, t.reg 15)) = some (0x7F, 0, 1) := by decide
theorem test_shiftLeft_A30_A31 : (after (withRegs [(2, 0x81)]) 0x820E).map (fun t => (t.reg 2, t.reg 15)) = some (2, 1) ∧
    (after (withRegs [(2, 0x40), (15, 1)]) 0x820E).map (fun t => (t.reg 2, t.reg 15)) = some (0x80, 0) := by decide
theorem test_random_A34_A37 : (after (State.reset.withRand 0xAB) 0xC3F0).map (fun t => (t.reg 3, t.rand)) = some (0xA0, []) ∧
    (after (State.reset.withRand 0xFF) 0xCF0F).map (·.reg 15) = some 0x0F := by decide

/-! ## Index and memory -/

theorem test_setIndex_M1 : (after { State.reset with i := 7 } 0xAFFF).map (·.i) = some 4095 := by decide
theorem test_addIndex_M2_M3 : (after { withRegs [(1, 0x20)] with i := 0x0FF0 } 0xF11E).map (·.i) = some 0x1010 ∧
    (after { withRegs [(1, 2), (15, 9)] with i := 0xFFFF } 0xF11E).map (fun t => (t.i, t.reg 15)) = some (1, 9) := by decide
theorem test_spriteAddr_M7_M8 : (after (withRegs [(2, 0x10)]) 0xF229).map (·.i) = some 80 ∧
    (after (withRegs [(2, 255)]) 0xF229).map (·.i) = some 1275 := by decide
theorem test_bcd_M10_M13 :
    (after (withMem (withRegs [(5, 7)]) 0x300 [9, 9, 9]) 0xF533).map (·.mem.readList 0x300 4) = some [0, 0, 7, 0] ∧
    (after { withRegs [(5, 123)] with i := 4093 } 0xF533).map (·.mem.readList 4093 3) = some [1, 2, 3] := by decide
theorem test_bcd_M14_M15 : errorOf { withRegs [(5, 123)] with i := 4094 } 0xF533 = some (.outOfBounds 0x200 4096) ∧
    errorOf { State.reset with i := 5000 } 0xF533 = some (.outOfBounds 0x200 5000) := by decide
theorem test_store_M16 : (after { withRegs [(0, 1), (1, 2), (2, 3), (3, 4), (4, 5)] with i := 0x300 } 0xF355).map
    (fun t => (t.mem.readList 0x300 5, t.i)) = some ([1, 2, 3, 4, 0], 0x300) := by decide
theorem test_store_M18_M19 : (after { withRegs [(0, 1), (15, 16)] with i := 4080 } 0xFF55).map
      (fun t => (t.mem.read 4080, t.mem.read 4095)) = some (1, 16) ∧
    errorOf { State.reset with i := 4081 } 0xFF55 = some (.outOfBounds 0x200 4096) := by decide
theorem test_load_M22 : (after (withMem (withRegs [(3, 0x55)]) 0x300 [10, 20, 30, 40]) 0xF265).map
    (fun t => (t.reg 0, t.reg 1, t.reg 2, t.reg 3)) = some (10, 20, 30, 0x55) := by decide
theorem test_load_M23_M24 : (after State.reset 0xF465).map (fun t => (t.reg 0, t.reg 1, t.reg 4)) = some (0xF0, 0x90, 0xF0) ∧
    errorOf { State.reset with i := 4095 } 0xF165 = some (.outOfBounds 0x200 4096) := by decide

/-- 20_memory.md R53: the first and the last glyph, and the length. -/
theorem test_font : Config.font.length = 80 ∧ Config.font.take 5 = [0xF0, 0x90, 0x90, 0x90, 0xF0] ∧
    Config.font.drop 75 = [0xF0, 0x80, 0xF0, 0x80, 0x80] := by decide

/-- Writing what an unlisted address reads as removes the entry. -/
theorem test_memory_canonical : ((Memory.write [] 0x300 9).write 0x300 0) = [] ∧ (Memory.write [] 0 0xF0) = [] ∧
    (Memory.write (Memory.write [] 0x301 1) 0x300 2) = [(0x300, 2), (0x301, 1)] := by decide

/-! ## Display -/

theorem test_cls_G1 : (after { (withPixels (withRegs [(15, 1)]) [(0, 0), (31, 63)]) with st := 1 } 0x00E0).map
    (fun t => (pixelCount t, t.reg 15)) = some (0, 1) := by decide +kernel
theorem test_draw_G3 : (after (withMem (withRegs [(0, 60)]) 0x300 [0xFF]) 0xD011).map
    (fun t => (columns t 0, pixelCount t, t.reg 15)) = some ([0, 1, 2, 3, 60, 61, 62, 63], 8, 0) := by decide +kernel
theorem test_draw_G6_G12 : (after (withPixels (withMem State.reset 0x300 [0xC0]) [(0, 1), (5, 5)]) 0xD011).map
      (fun t => (columns t 0, columns t 5, t.reg 15)) = some ([0], [5], 1) ∧
    (after (withMem (withRegs [(15, 10), (1, 2)]) 0x300 [0x80]) 0xDF11).map
      (fun t => (columns t 2, t.reg 15)) = some ([10], 0) := by decide +kernel
theorem test_draw_G8_G11 : (after { withPixels (withRegs [(15, 1)]) [(3, 3)] with i := 5000 } 0xD010).map
      (fun t => (columns t 3, pixelCount t, t.reg 15)) = some ([3], 1, 0) ∧
    errorOf { State.reset with i := 4082 } 0xD01F = some (.outOfBounds 0x200 4096) := by decide +kernel

/-- 43_display.md R200, 60_exceptions.md R256: row-major, 2048 bits; the redraw bit. -/
theorem test_displayRead : ((withPixels State.reset [(2, 5)]).displayRead)[133]? = some true ∧
    State.reset.displayRead.length = 2048 ∧
    (State.reset.execOutput .cls) = some ⟨.nextPc 0x202, true⟩ := by decide +kernel

/-! ## Keypad and timers -/

theorem test_skipKey_K2_K5 : (after (withKeys (withRegs [(1, 5)]) [4]) 0xE19E).map (·.pc) = some 0x202 ∧
    (after (withKeys (withRegs [(1, 0x15)]) [5]) 0xE19E).map (·.pc) = some 0x204 := by decide
theorem test_skipNotKey_K3_K4 : (after (withKeys (withRegs [(1, 5)]) [5]) 0xE1A1).map (·.pc) = some 0x202 ∧
    (after (withRegs [(1, 5)]) 0xE1A1).map (·.pc) = some 0x204 := by decide
theorem test_waitKeyPress_K6_K7 : stepOutput ((withRegs [(1, 9)]).withFetchWord 16 0xF10A) = some ⟨.blocked, false⟩ ∧
    (after (withRegs [(1, 9)]) 0xF10A).map (fun t => (t.reg 1, t.pc)) = some (9, 0x200) ∧
    (after (withKeys (withRegs [(1, 0xEE)]) [9, 3]) 0xF10A).map (fun t => (t.reg 1, t.pc)) = some (3, 0x202) := by decide
theorem test_loadDelay_K10 : (after { State.reset with dt := 42 } 0xF307).map (fun t => (t.reg 3, t.dt)) = some (42, 42) := by
  decide
theorem test_setDelay_K11 : (after { withRegs [(3, 200)] with dt := 1 } 0xF315).map (fun t => (t.dt, t.st)) = some (200, 0) := by
  decide
theorem test_setSound_K12 : (after { withRegs [(3, 0)] with st := 9, dt := 4 } 0xF318).map (fun t => (t.dt, t.st)) =
    some (4, 0) := by decide
theorem test_ticks_K13_K15 : (State.reset.tickTimers.dt, State.reset.tickTimers.st) = (0, 0) ∧
    (State.tickTimers { State.reset with dt := 255, st := 2 }).dt = 254 ∧
    (State.tickTimers { State.reset with dt := 255, st := 2 }).st = 1 := by decide

/-! ## The program's first instruction (log 18) -/

/-- `withFetchWord` from a `PC` no fetch accepts: the program's entry point. -/
theorem test_withFetchWord_at_limit : (after { State.reset with pc := 4094 } 0x1ABC).map (·.pc) = some 0xABC := by decide

/-- The host's reading of a table word. -/
theorem test_decodeTableWord : decodeTableWord 16 0x1ABC = some (.jump 0xABC) ∧ decodeTableWord 16 0x80A9 = none := by decide

/-! ## The spec's program notation -/

/-- R101's example, and statements of P2, P4 and P6. -/
theorem test_assembly : (Instr.add 3 10).text = "ADD V3, VA" ∧ assemble [.instr (.add 3 10)] = [0x83, 0xA4] ∧
    (Instr.setIndex 0x300).text = "LD I, 0x300" ∧ (Instr.load 2).text = "LD V2, [I]" ∧
    assemble [.instr (.loadConst 0 1), .dw 0x80A9, .db [7]] = [0x60, 0x01, 0x80, 0xA9, 7] := by decide

/-! ## Witnesses: a concrete state and operands for the hypotheses of each obligation that has any, each clause at a boundary -/

theorem witness_encodeRestores : decode 0x912F = .ok (.skipNeqReg 1 2) ∧ decode 0x82F6 = .ok (.shiftRight 2) := by decide
theorem witness_opcodeMap : decode 0x82F6 = .ok (.shiftRight 2) ∧ decode 0xFFFF = .error .familyF := by decide
theorem witness_rejectedWords : (∃ e, decode 0x01E0 = .error e) ∧ decode 0x00E0 = .ok .cls := ⟨⟨_, rfl⟩, rfl⟩

/-- `PC` = 4093, the last address a fetch accepts. -/
theorem witness_stepRuns : ∃ s : State, s.pc.toNat < 4094 ∧
    decode (s.mem.read s.pc.toNat ++ s.mem.read (s.pc.toNat + 1)) = .ok (.jump 0x200) :=
  ⟨withMem { State.reset with pc := 4093 } 4093 [0x12, 0x00], by decide⟩
theorem witness_fetch_limit : ∃ s : State, 4094 ≤ s.pc.toNat ∧ step s = .fault (.outOfBounds 4094 4094) :=
  ⟨{ State.reset with pc := 4094 }, by decide, rfl⟩
theorem witness_decodeError : ∃ s : State, s.pc.toNat < 4094 ∧ step s = .fault (.decodeError 4093 0) :=
  ⟨{ State.reset with pc := 4093 }, by decide, rfl⟩

/-- The three results: `Blocked`, `NextPc`, an error. -/
theorem witness_stepResults :
    (∃ s : State, step s = .next s ∧ s.fetchDecode = .ok (.waitKeyPress 1) ∧ ∀ k, s.keyDown k = false) ∧
    (∃ s t : State, step s = .next t ∧ s.fetchDecode = .ok (.waitKeyPress 1) ∧ s.keyDown 15 = true) ∧
    (∃ s f, step s = .fault f) :=
  ⟨⟨State.reset.withFetchWord 16 0xF10A, rfl, rfl, by decide⟩,
   ⟨(withKeys State.reset [15]).withFetchWord 16 0xF10A, _, rfl, rfl, by decide⟩, ⟨State.reset, _, rfl⟩⟩
theorem witness_redraw :
    stepOutput (State.reset.withFetchWord 16 0x00E0) = some ⟨.nextPc 0x202, true⟩ ∧
    stepOutput (State.reset.withFetchWord 16 0xD010) = some ⟨.nextPc 0x202, true⟩ ∧
    stepOutput (State.reset.withFetchWord 16 0x6001) = some ⟨.nextPc 0x202, false⟩ := by decide +kernel

/-- The last free entry, and a full stack. -/
theorem witness_call : ∃ s s' : State, s.sp.val = 15 ∧ s.sp.val < 16 ∧ s'.sp.val = 16 :=
  ⟨{ State.reset with sp := 15 }, { State.reset with sp := 16 }, by decide⟩

/-- One entry, a full stack, and an empty one. -/
theorem witness_ret : ∃ s s' r : State, s.sp.val = 1 ∧ 0 < s.sp.val ∧ 0 < s'.sp.val ∧ s'.sp.val = 16 ∧ r.sp.val = 0 :=
  ⟨{ State.reset with sp := 1 }, { State.reset with sp := 16 }, State.reset, by decide⟩
theorem witness_retUndoesCall : ∃ s t u : State, exec (.call 0x300) s = .next t ∧ u.sp = t.sp ∧ u.stack = t.stack ∧ u.pc ≠ t.pc :=
  ⟨{ State.reset with sp := 15 }, _, { State.reset with sp := 16, stack := State.reset.stack.set 15 0x202, pc := 7 },
   rfl, rfl, rfl, by decide⟩

/-- Both sides of every skip condition. -/
theorem witness_skips : (withRegs [(15, 255)]).reg 15 = 255 ∧ (withRegs [(15, 254)]).reg 15 ≠ 255 ∧
    (withRegs [(1, 7), (15, 7)]).reg 1 = (withRegs [(1, 7), (15, 7)]).reg 15 ∧
    (withRegs [(1, 7)]).reg 1 ≠ (withRegs [(1, 7)]).reg 15 := by decide

/-- `x` is not 15; sums of 255 and 256; equal operands and a borrow by one; both values of the bits shifted out. -/
theorem witness_flags : (0 : RegNum) ≠ vf ∧
    ((withRegs [(0, 255)]).reg 0).toNat + ((withRegs [(0, 255)]).reg 1).toNat = 255 ∧
    255 < ((withRegs [(0, 255), (1, 1)]).reg 0).toNat + ((withRegs [(0, 255), (1, 1)]).reg 1).toNat ∧
    ((withRegs [(0, 1), (1, 1)]).reg 1).toNat ≤ ((withRegs [(0, 1), (1, 1)]).reg 0).toNat ∧
    ¬((withRegs [(0, 0), (1, 1)]).reg 1).toNat ≤ ((withRegs [(0, 0), (1, 1)]).reg 0).toNat ∧
    ((withRegs [(0, 1)]).reg 0).getLsbD 0 = true ∧ ((withRegs [(0, 0xFE)]).reg 0).getLsbD 0 = false ∧
    ((withRegs [(0, 0x80)]).reg 0).getLsbD 7 = true ∧ ((withRegs [(0, 0x7F)]).reg 0).getLsbD 7 = false := by decide
theorem witness_identities : (1 : RegNum) ≠ vf ∧ (∃ t, exec (.add 1 15) State.reset = .next t) ∧
    (∃ t, exec (.sub 1 15) State.reset = .next t) ∧ (∃ t, exec (.subN 1 15) State.reset = .next t) ∧
    (∃ t, exec (.shiftRight 1) State.reset = .next t) ∧ (∃ t, exec (.shiftLeft 1) State.reset = .next t) :=
  ⟨by decide, ⟨_, rfl⟩, ⟨_, rfl⟩, ⟨_, rfl⟩, ⟨_, rfl⟩, ⟨_, rfl⟩⟩

/-- A presented byte, and none. -/
theorem witness_random : (State.reset.withRand 0xAB).rand = 0xAB :: [] ∧ State.reset.rand = [] := by decide
theorem witness_flagRegister : ∃ t, exec (.draw 15 15 0) State.reset = .next t := ⟨_, rfl⟩

/-- The last legal place of each range (M13, M18), and the first illegal one (M14, M19, M21, G11). -/
theorem witness_ranges : ∃ s s' : State,
    (s.i.toNat = 4093 ∧ s.i.toNat + 2 ≤ 4095) ∧ (s'.i.toNat = 4080 ∧ s'.i.toNat + (15 : RegNum).val ≤ 4095) :=
  ⟨{ State.reset with i := 4093 }, { State.reset with i := 4080 }, by decide⟩
theorem witness_rangeErrors : ∃ s s' : State,
    (s.i.toNat = 4094 ∧ 4095 < s.i.toNat + 2 ∧ 4095 < s.i.toNat + (2 : RegNum).val ∧
      0 < (3 : Fin 16).val ∧ 4095 < s.i.toNat + (3 : Fin 16).val - 1) ∧
    (4095 < s'.i.toNat + (0 : RegNum).val ∧ 0 < (1 : Fin 16).val ∧ 4095 < s'.i.toNat + (1 : Fin 16).val - 1) ∧
    (0 : Fin 16).val = 0 :=
  ⟨{ State.reset with i := 4094 }, { State.reset with i := 0xFFFF }, by decide⟩
theorem witness_loadUndoesStore : ∃ s t u : State, exec (.store 15) s = .next t ∧ u.i = s.i ∧
    (∀ r : RegNum, r ≤ 15 → u.mem.read (s.i.toNat + r.val) = t.mem.read (s.i.toNat + r.val)) ∧ u.reg 15 ≠ s.reg 15 :=
  ⟨{ withRegs [(0, 1), (15, 16)] with i := 4080 }, _, { State.reset with i := 4080, mem := [(4080, 1), (4095, 16)] }, rfl, rfl,
   by decide, by decide⟩

/-- As in P7 the store makes a jump of zeros, here at the last address a fetch accepts. -/
theorem witness_storedBytes : ∃ s t u : State, exec (.store 1) s = .next t ∧ (1 : RegNum).val = (0 : RegNum).val + 1 ∧
    (1 : RegNum) ≤ 1 ∧ (∀ a, u.mem.read a = t.mem.read a) ∧ u.pc.toNat = s.i.toNat + (0 : RegNum).val ∧ u.pc.toNat = 4093 ∧
    u.pc.toNat < 4094 ∧ decode (s.reg 0 ++ s.reg 1) = .ok (.jump 0x208) :=
  ⟨{ withRegs [(0, 0x12), (1, 0x08)] with i := 4093 }, _,
   { State.reset with pc := 4093, mem := [(4093, 0x12), (4094, 0x08)] }, rfl, rfl, by decide, fun _ => rfl, by decide⟩
theorem witness_canonical : Memory.wf [(0, 1), (4095, 2)] = true ∧
    (∀ a, Memory.read [(0, 1), (4095, 2)] a = Memory.read [(0, 1), (4095, 2)] a) := ⟨by decide, fun _ => rfl⟩

/-- An empty range beyond memory (G8) and a full one that just fits (G10). -/
theorem witness_draw : ∃ s s' : State, s.i.toNat = 5000 ∧ s.RangeOk 0 ∧ s'.i.toNat = 4081 ∧ s'.RangeOk 15 :=
  ⟨{ State.reset with i := 5000 }, { State.reset with i := 4081 }, by decide, .inl rfl, by decide, .inr (by decide)⟩

/-- A pixel the sprite covers across both edges, set or not, and one an empty sprite does not cover. -/
theorem witness_covers : ∃ s : State, SpriteCovers s 0 1 2 0 3 ∧ SpriteCovers s 0 1 2 31 3 ∧ ¬SpriteCovers s 0 1 0 0 3 ∧
    s.pix.pixel 0 3 = true ∧ s.pix.pixel 31 3 = false :=
  ⟨withPixels (withMem (withRegs [(0, 60), (1, 31)]) 0x300 [0xFF, 0xFF]) [(0, 3)],
   ⟨1, 7, by decide⟩, ⟨0, 7, by decide⟩, fun ⟨_, _, h, _⟩ => absurd h (by simp), by decide +kernel, by decide +kernel⟩
theorem witness_drawTwice : ∃ s t u : State, exec (.draw 0 1 2) s = .next t ∧ u.pix = t.pix ∧ u.i = s.i ∧ u.reg 0 = s.reg 0 ∧
    u.reg 1 = s.reg 1 ∧ (∀ a, u.mem.read a = s.mem.read a) :=
  ⟨withMem (withRegs [(0, 60), (1, 31)]) 0x300 [0xFF, 0xFF], _, _, rfl, rfl, rfl, rfl, rfl, fun _ => rfl⟩

/-- The high nibble of `V[x]` is ignored; the key is down, and up. -/
theorem witness_keySkips : (15 : KeyNum).val = ((withRegs [(1, 0xFF)]).reg 1).toNat % 16 ∧
    (withKeys (withRegs [(1, 0xFF)]) [15]).key[15] = true ∧ (withRegs [(1, 0xFF)]).key[15] = false := by decide
theorem witness_waitKey :
    ((withKeys State.reset [15]).key[15] = true ∧ ∀ j : KeyNum, j < 15 → (withKeys State.reset [15]).key[j] = false) ∧
    ((withKeys State.reset [0, 15]).key[0] = true ∧ ∀ j : KeyNum, j < 0 → (withKeys State.reset [0, 15]).key[j] = false) ∧
    (∀ k : KeyNum, State.reset.key[k] = false) := by decide

/-- More ticks than the value, and exactly as many. -/
theorem witness_loadDelayAfterTicks : ∃ s t u r : State, exec (.setDelay 1) s = .next t ∧ s.reg 1 = 2 ∧
    u.dt = (t.tickTimes 3).dt ∧ r.dt = (t.tickTimes 2).dt :=
  ⟨withRegs [(1, 2)], _, State.reset, State.reset, rfl, by decide, by decide, by decide⟩
theorem witness_ticks : ∃ s t : State, step s = .next t ∧ s.fetchDecode = .ok (.setDelay 1) ∧ t.dt = 7 :=
  ⟨(withRegs [(1, 7)]).withFetchWord 16 0xF115, _, rfl, rfl, by decide⟩

/-- X2 and X3: the longest program accepted and the shortest refused. -/
theorem witness_load : (List.replicate 3583 (0xA5 : Byte)).length ≤ 3583 ∧ 3583 < (List.replicate 3584 (0xA5 : Byte)).length := by
  rw [List.length_replicate, List.length_replicate]; omega

/-- Each of the four errors, and operations that may follow it. -/
theorem witness_errors : ∃ s s' r r' : State, step (s.withRand 1) = .fault (.decodeError 0x200 0x80A9) ∧
    step (s'.withRand 1) = .fault (.stackOverflow 0x200) ∧ step (r.withRand 1) = .fault (.stackUnderflow 0x200) ∧
    step (r'.withRand 1) = .fault (.outOfBounds 0x200 4096) ∧
    ∀ op ∈ [Operation.tickTimers, .keySet 3 true, .step 9], op = .tickTimers ∨ (∃ k d, op = .keySet k d) ∨ ∃ b', op = .step b' :=
  ⟨State.reset.withFetchWord 16 0x80A9, State.withFetchWord { State.reset with sp := 16 } 16 0x2345,
   State.reset.withFetchWord 16 0x00EE, State.withFetchWord { State.reset with i := 4094 } 16 0xF533, rfl, rfl, rfl, rfl, by simp⟩

/-- A step of each writer, and operations of each kind that are no step and no reset. -/
theorem witness_singleWriter : (∃ t, step ((withRegs [(1, 7)]).withFetchWord 16 0xF118) = .next t ∧ t.st ≠ 0) ∧
    (∃ t, step (State.withFetchWord { withRegs [(1, 7)] with i := 0x300 } 16 0xF133) = .next t ∧ t.mem.read 0x302 ≠ 0) ∧
    ((∀ b, Operation.load [1] ≠ .step b) ∧ Operation.load [1] ≠ .reset ∧ Operation.load [1] ≠ .tickTimers ∧
      ∀ k d, Operation.load [1] ≠ .keySet k d) ∧
    ((∀ b, Operation.tickTimers ≠ .step b) ∧ Operation.tickTimers ≠ .reset ∧ (∀ bytes, Operation.tickTimers ≠ .load bytes)) :=
  ⟨⟨_, rfl, by decide⟩, ⟨_, rfl, by decide⟩, by simp, by simp⟩
theorem witness_onlyNamed : (∃ t, exec (.addIndex 1) (withRegs [(1, 1)]) = .next t ∧ t.i ≠ (withRegs [(1, 1)]).i) ∧
    (∃ t, exec (.call 5) State.reset = .next t ∧ t.sp ≠ State.reset.sp ∧ t.stack ≠ State.reset.stack) ∧
    (∃ t, exec .cls (withPixels State.reset [(0, 0)]) = .next t ∧ t.pix ≠ (withPixels State.reset [(0, 0)]).pix) :=
  ⟨⟨_, rfl, by decide⟩, ⟨_, rfl, by decide⟩, ⟨_, rfl, by decide +kernel⟩⟩

/-- Two states that differ in a register the instruction does not read. -/
theorem witness_registerUse : ∃ s s' t : State, KeptBut [.regs] s s' ∧ (∀ r ∈ regReads (.add 1 2), s'.reg r = s.reg r) ∧
    exec (.add 1 2) s = .next t ∧ s'.reg 3 ≠ s.reg 3 :=
  ⟨withRegs [(1, 200), (2, 100)], withRegs [(1, 200), (2, 100), (3, 9)], _,
   (keptBut_iff ..).mpr (by simp [withRegs, State.setReg]), by decide, rfl, by decide⟩

/-- A good state at the edge of memory, with a return address, whose step takes `PC` to the end of its range. -/
theorem witness_invariant : ∃ s t : State, s.Inv ∧ step s = .next t ∧ t.pc.toNat = 4350 :=
  ⟨{ withRegs [(0, 0xFF)] with sp := 1, stack := State.reset.stack.set 0 4095, pc := 4092, mem := [(4092, 0xBF), (4093, 0xFF)] }, _,
   ⟨by decide, by decide, by decide⟩, rfl, by decide⟩
theorem witness_reachable : Reachable State.reset ∧ SafeRun 1 (State.reset.withFetchWord 16 0x1200) :=
  ⟨⟨[], rfl⟩, ⟨_, rfl, trivial⟩⟩

end Sys2Proof.Tests
end

section
/-! Which parts of the state each instruction and each operation from outside can change, as one table each, with the statements
about single writers and about reset read off them (spec/10_state.md R36, R37). -/

namespace Sys2Proof.Machine

/-! ## Frames compose -/

variable {l : List Part} {s t u : State}

theorem KeptBut.trans (hst : KeptBut l s t) (htu : KeptBut l t u) : KeptBut l s u := by
  intro p hp
  have h₁ := hst p hp
  have h₂ := htu p hp
  cases p <;> simp_all [Part.same]

/-! ## One frame per update of the state -/

theorem KeptBut.setReg (x : RegNum) (b : Byte) (hl : .regs ∈ l) : KeptBut l s (s.setReg x b) := by
  simp [keptBut_iff, hl]

theorem KeptBut.setFlagged (x : RegNum) (r : Flagged) (hl : .regs ∈ l) : KeptBut l s (s.setFlagged x r) := by
  simp [keptBut_iff, hl]

theorem KeptBut.loadRegs (x : RegNum) (hl : .regs ∈ l) : KeptBut l s (s.loadRegs x) := by
  simp [keptBut_iff, hl]

theorem KeptBut.setIndex (a : Word) (hl : .i ∈ l) : KeptBut l s (s.setIndex a) := by
  simp [keptBut_iff, hl]

theorem KeptBut.setDt (b : Byte) (hl : .dt ∈ l) : KeptBut l s (s.setDt b) := by
  simp [keptBut_iff, hl]

theorem KeptBut.setSt (b : Byte) (hl : .st ∈ l) : KeptBut l s (s.setSt b) := by
  simp [keptBut_iff, hl]

theorem KeptBut.setPix (p : Plane) (hl : .pix ∈ l) : KeptBut l s (s.setPix p) := by
  simp [keptBut_iff, hl]

theorem KeptBut.storeBytes (bytes : List Byte) (hl : .mem ∈ l) : KeptBut l s (s.storeBytes bytes) := by
  simp [keptBut_iff, hl]

theorem KeptBut.push (a : Word) (h : s.sp.val < 16) (hsp : .sp ∈ l) (hst : .stack ∈ l) :
    KeptBut l s (s.push a h) := by
  simp [keptBut_iff, hsp, hst]

theorem KeptBut.pop (hl : .sp ∈ l) : KeptBut l s s.pop := by
  simp [keptBut_iff, hl]

theorem KeptBut.takeRand (hr : .rand ∈ l) (hd : .draws ∈ l) : KeptBut l s s.takeRand := by
  simp [keptBut_iff, hr, hd]

theorem KeptBut.setPc (a : Word) (hl : .pc ∈ l) : KeptBut l s (s.setPc a) := by
  simp [keptBut_iff, hl]

/-! ## Frames of answers -/

/-- When the answer is a next state, it differs from `s` in the named parts only. -/
def NextKeptBut (l : List Part) (s : State) (r : Result) : Prop := ∀ t, r = .next t → KeptBut l s t

theorem KeptBut.goto (h : KeptBut l s t) (a : Word) (hl : .pc ∈ l) : NextKeptBut l s (t.goto a) := by
  intro u hu
  obtain rfl := (State.goto_eq_next ..).1 hu
  exact h.trans (KeptBut.setPc a hl)

theorem KeptBut.advance (h : KeptBut l s t) (hl : .pc ∈ l) : NextKeptBut l s t.advance := h.goto _ hl

theorem KeptBut.skipIf (h : KeptBut l s t) (c : Bool) (hl : .pc ∈ l) : NextKeptBut l s (t.skipIf c) := h.goto _ hl

theorem NextKeptBut.raise (f : Fault) : NextKeptBut l s (raise f) := fun t ht => absurd ht (raise_ne_next f t)

theorem NextKeptBut.guardRange {r : Result} (h : NextKeptBut l s r) (k : Nat) : NextKeptBut l s (s.guardRange k r) :=
  fun t ht => h t (State.guardRange_eq_next.1 ht).2

theorem NextKeptBut.waitKeyPress (x : RegNum) (hr : .regs ∈ l) (hl : .pc ∈ l) :
    NextKeptBut l s (execWaitKeyPress x s) := by
  unfold execWaitKeyPress
  split
  · intro t ht
    obtain rfl : s = t := by simpa [State.block] using ht
    exact KeptBut.refl l s
  · exact (KeptBut.setReg x _ hr).advance hl

/-! ## The table of the instructions -/

/-- The parts of the state an instruction can change. -/
def partWrites : Instr → List Part
  | .jump _ | .skipEqConst _ _ | .skipNeqConst _ _ | .skipEqReg _ _ | .skipNeqReg _ _ | .jumpOffset _ | .skipKey _
  | .skipNotKey _ => [.pc]
  | .loadConst _ _ | .addConst _ _ | .move _ _ | .or _ _ | .and _ _ | .xor _ _ | .add _ _ | .sub _ _ | .shiftRight _
  | .subN _ _ | .shiftLeft _ | .loadDelay _ | .waitKeyPress _ | .load _ => [.pc, .regs]
  | .random _ _ => [.pc, .regs, .rand, .draws]
  | .setIndex _ | .addIndex _ | .spriteAddr _ => [.pc, .i]
  | .cls => [.pc, .pix]
  | .draw _ _ _ => [.pc, .regs, .pix]
  | .ret => [.pc, .sp]
  | .call _ => [.pc, .sp, .stack]
  | .setDelay _ => [.pc, .dt]
  | .setSound _ => [.pc, .st]
  | .bcd _ | .store _ => [.pc, .mem]

theorem pc_mem_partWrites (i : Instr) : .pc ∈ partWrites i := by
  cases i <;> simp [partWrites]

/-- Every instruction keeps what the table does not name. -/
theorem exec_nextKeptBut (i : Instr) (s : State) : NextKeptBut (partWrites i) s (exec i s) := by
  have hpc := pc_mem_partWrites i
  cases i with
  | jump | jumpOffset => exact (KeptBut.refl _ s).goto _ hpc
  | skipEqConst | skipNeqConst | skipEqReg | skipNeqReg | skipKey | skipNotKey =>
    exact (KeptBut.refl _ s).skipIf _ hpc
  | loadConst | addConst | move | or | and | xor | loadDelay =>
    exact (KeptBut.setReg _ _ (by simp [partWrites])).advance hpc
  | add | sub | shiftRight | subN | shiftLeft => exact (KeptBut.setFlagged _ _ (by simp [partWrites])).advance hpc
  | random =>
    have hrand := KeptBut.takeRand (s := s) (l := [.pc, .regs, .rand, .draws]) (by decide) (by decide)
    exact (hrand.trans (KeptBut.setReg _ _ (by decide))).advance hpc
  | waitKeyPress x => exact NextKeptBut.waitKeyPress x (by simp [partWrites]) hpc
  | load x => exact ((KeptBut.loadRegs x (by simp [partWrites])).advance hpc).guardRange _
  | setIndex | addIndex | spriteAddr => exact (KeptBut.setIndex _ (by simp [partWrites])).advance hpc
  | cls => exact (KeptBut.setPix _ (by decide)).advance hpc
  | draw x y n =>
    have hpix := KeptBut.setPix (s := s) (l := [.pc, .regs, .pix]) (s.pix.draw (s.sprite x y n)).plane (by decide)
    exact ((hpix.trans (KeptBut.setReg _ _ (by decide))).advance hpc).guardRange _
  | ret =>
    simp only [exec, execRet]
    split
    · exact (KeptBut.pop (by decide)).goto _ hpc
    · exact NextKeptBut.raise _
  | call =>
    simp only [exec, execCall]
    split
    · exact (KeptBut.push _ _ (by simp [partWrites]) (by simp [partWrites])).goto _ hpc
    · exact NextKeptBut.raise _
  | setDelay => exact (KeptBut.setDt _ (by simp [partWrites])).advance hpc
  | setSound => exact (KeptBut.setSt _ (by simp [partWrites])).advance hpc
  | bcd | store => exact ((KeptBut.storeBytes _ (by simp [partWrites])).advance hpc).guardRange _

/-- A part that an instruction changed is one the table names for it. -/
theorem mem_partWrites_of_changed {i : Instr} (h : exec i s = .next t) {p : Part} (hp : ¬p.same s t) :
    p ∈ partWrites i :=
  Decidable.byContradiction fun hn => hp (exec_nextKeptBut i s t h p hn)

/-! ## Who may write a part, read off the table -/

theorem key_not_mem_partWrites (i : Instr) : .key ∉ partWrites i := by
  cases i <;> simp [partWrites]

theorem dt_mem_partWrites_iff {i : Instr} : .dt ∈ partWrites i ↔ ∃ x, i = .setDelay x := by
  cases i <;> simp [partWrites]

theorem st_mem_partWrites_iff {i : Instr} : .st ∈ partWrites i ↔ ∃ x, i = .setSound x := by
  cases i <;> simp [partWrites]

theorem mem_mem_partWrites_iff {i : Instr} : .mem ∈ partWrites i ↔ ∃ x, i = .bcd x ∨ i = .store x := by
  cases i <;> simp [partWrites]

theorem i_mem_partWrites_iff {i : Instr} :
    .i ∈ partWrites i ↔ (∃ nnn, i = .setIndex nnn) ∨ ∃ x, i = .addIndex x ∨ i = .spriteAddr x := by
  cases i <;> simp [partWrites]

theorem sp_mem_partWrites_iff {i : Instr} : .sp ∈ partWrites i ↔ i = .ret ∨ ∃ nnn, i = .call nnn := by
  cases i <;> simp [partWrites]

theorem stack_mem_partWrites_iff {i : Instr} : .stack ∈ partWrites i ↔ ∃ nnn, i = .call nnn := by
  cases i <;> simp [partWrites]

theorem pix_mem_partWrites_iff {i : Instr} : .pix ∈ partWrites i ↔ i = .cls ∨ ∃ x y n, i = .draw x y n := by
  cases i <;> simp [partWrites]

/-- A step that completes fetched and decoded an instruction and is its execution (spec/40_flow.md R120). -/
theorem step_eq_next_iff : step s = .next t ↔ ∃ i, s.fetchDecode = .ok i ∧ exec i s = .next t := by
  unfold step
  cases s.fetchDecode <;> simp

/-! ## The table of the operations -/

/-- The parts of the state an operation from outside can change; a step and a reset can change any. -/
def Operation.partWrites : Operation → List Part
  | .load _ => [.mem]
  | .tickTimers => [.dt, .st]
  | .keySet _ _ => [.key]
  | .displayRead | .decode _ _ => []
  | .step _ | .reset => [.regs, .i, .pc, .stack, .sp, .dt, .st, .mem, .pix, .key, .rand, .draws]

/-- Every operation keeps what the table does not name. -/
theorem transition_keptBut (op : Operation) (s : State) : KeptBut op.partWrites s (transition s op).1 := by
  cases op with
  | load bytes =>
    by_cases h : Config.maxProgLen < bytes.length <;>
      simp [keptBut_iff, Operation.partWrites, transition, State.load, h, State.reg]
  | tickTimers | keySet => simp [keptBut_iff, Operation.partWrites, transition]
  | displayRead | decode => exact KeptBut.refl _ s
  | step | reset =>
    intro p hp
    cases p <;> simp [Operation.partWrites] at hp

/-! ## The obligations -/

/-- Settles O50: a completed step is the execution of the decoded instruction, so its clauses are read off the table of the
instructions; those of the outside off the table of the operations. -/
theorem singleWriterDiscipline : Obligations.SingleWriterDiscipline := by
  unfold Obligations.SingleWriterDiscipline
  intro s
  constructor
  · intro t hstep
    obtain ⟨i, hi, hexec⟩ := step_eq_next_iff.1 hstep
    have changed {p : Part} : ¬p.same s t → p ∈ partWrites i := mem_partWrites_of_changed hexec
    simp only [hi, Except.ok.injEq]
    exact ⟨exec_nextKeptBut i s t hexec .key (key_not_mem_partWrites i),
      fun h => dt_mem_partWrites_iff.1 (changed (p := .dt) h), fun h => st_mem_partWrites_iff.1 (changed (p := .st) h),
      fun ⟨a, h⟩ => mem_mem_partWrites_iff.1 (changed (p := .mem) fun hs => h (hs a))⟩
  · intro op hstep hreset
    have kept := (keptBut_iff ..).1 (transition_keptBut op s)
    rw [keptBut_iff]
    cases op with
    | step b => exact absurd rfl (hstep b)
    | reset => exact absurd rfl hreset
    | load | tickTimers | keySet | displayRead | decode => simp_all [Operation.partWrites]

/-- Settles O51, from the table of the instructions. -/
theorem onlyTheNamedInstructionsWrite : Obligations.OnlyTheNamedInstructionsWrite := by
  unfold Obligations.OnlyTheNamedInstructionsWrite
  intro i s t hexec
  have changed {p : Part} : ¬p.same s t → p ∈ partWrites i := mem_partWrites_of_changed hexec
  exact ⟨fun h => i_mem_partWrites_iff.1 (changed (p := .i) h), fun h => sp_mem_partWrites_iff.1 (changed (p := .sp) h),
    fun h => stack_mem_partWrites_iff.1 (changed (p := .stack) h),
    fun h => pix_mem_partWrites_iff.1 (changed (p := .pix) h)⟩

theorem font_length : Config.font.length = 80 := rfl

theorem Memory.initial_font {a : Nat} (h : a < Config.font.length) : Memory.initial a = Config.font[a] :=
  (List.getElem_eq_getD 0).symm

theorem Memory.initial_of_ge {a : Nat} (h : 80 ≤ a) : Memory.initial a = 0 :=
  List.getD_eq_default _ _ (by rwa [font_length])

/-- Settles O49: the fields are those of `State.reset`, and its memory, with nothing listed, reads as its reset contents. -/
theorem resetState : Obligations.ResetState := by
  unfold Obligations.ResetState
  intro s
  refine ⟨State.reset, rfl, rfl, fun r => ?_, rfl, rfl, rfl, rfl, rfl, fun k => ?_, fun row col => ?_, fun k => ?_,
    fun a ha => Memory.initial_of_ge ha, fun a ha => Memory.initial_font ha, font_length⟩
  · simp [State.reg, State.reset]
  · simp [State.reset]
  · simp [Plane.pixel, State.reset]
  · simp [State.reset]

/-- Settles O53: memory with nothing listed is canonical, `PC` is 512, and no return address is in use. -/
theorem resetIsGood : Obligations.ResetIsGood where
  memory := Memory.wf_reset
  pcRange := by decide
  returns := fun k hk => absurd hk (Nat.not_lt_zero k.val)

end Sys2Proof.Machine
end

section
/-! Which registers an instruction depends on and which it writes (spec/10_state.md R23): every operation takes two states that
agree on the registers it reads to two states that agree on the registers it writes. -/

namespace Sys2Proof.Machine

/-! ## Two states that differ in registers only -/

/-- The two states differ at most in registers, and not in the registers `rs`. -/
structure AgreeOn (rs : List RegNum) (s s' : State) : Prop where
  regs : ∀ r ∈ rs, s'.reg r = s.reg r
  i : s'.i = s.i
  pc : s'.pc = s.pc
  stack : s'.stack = s.stack
  sp : s'.sp = s.sp
  dt : s'.dt = s.dt
  st : s'.st = s.st
  mem : ∀ a, s'.mem.read a = s.mem.read a
  pix : s'.pix = s.pix
  key : s'.key = s.key
  rand : s'.rand = s.rand
  draws : s'.draws = s.draws

variable {rs : List RegNum} {s s' : State}

theorem agreeOn_iff : AgreeOn rs s s' ↔ KeptBut [.regs] s s' ∧ ∀ r ∈ rs, s'.reg r = s.reg r := by
  constructor
  · intro h
    exact ⟨(keptBut_iff ..).2 (by simp [h.i, h.pc, h.stack, h.sp, h.dt, h.st, h.mem, h.pix, h.key, h.rand, h.draws]),
      h.regs⟩
  · rintro ⟨hk, hr⟩
    have kept (p : Part) (hp : p ≠ .regs) : p.same s s' := hk p (by simpa using hp)
    exact {
      regs := hr, i := kept .i nofun, pc := kept .pc nofun, stack := kept .stack nofun, sp := kept .sp nofun
      dt := kept .dt nofun, st := kept .st nofun, mem := kept .mem nofun, pix := kept .pix nofun
      key := kept .key nofun, rand := kept .rand nofun, draws := kept .draws nofun }

theorem State.regsUpTo_congr {x : RegNum} (h : ∀ r ≤ x, s'.reg r = s.reg r) : s'.regsUpTo x = s.regsUpTo x := by
  refine List.ext_getElem (by simp) fun j hj _ => ?_
  rw [State.regsUpTo_getElem, State.regsUpTo_getElem]
  rw [State.regsUpTo_length] at hj
  exact h _ (Fin.le_def.2 (Nat.le_of_lt_succ hj))

namespace AgreeOn

theorem nil (h : AgreeOn rs s s') : AgreeOn [] s s' := { h with regs := by simp }

/-! ## What such states read alike -/

theorem keyDown (h : AgreeOn rs s s') (k : KeyNum) : s'.keyDown k = s.keyDown k := by
  simp [State.keyDown, h.key]

theorem firstPressed (h : AgreeOn rs s s') : s'.firstPressed = s.firstPressed := by
  simp [State.firstPressed, h.keyDown]

theorem randByte (h : AgreeOn rs s s') : s'.randByte = s.randByte := by
  simp [State.randByte, h.rand, h.draws]

theorem readList (h : AgreeOn rs s s') (base k : Nat) : s'.mem.readList base k = s.mem.readList base k := by
  simp [Memory.readList, h.mem]

theorem regWrites (h : AgreeOn rs s s') (i : Instr) : s'.regWrites i = s.regWrites i := by
  cases i <;> simp [State.regWrites, h.firstPressed]

/-! ## One rule per update: the same update on both sides -/

theorem setPc (h : AgreeOn rs s s') (a : Word) : AgreeOn rs (s.setPc a) (s'.setPc a) := { h with pc := rfl }

theorem setIndex (h : AgreeOn rs s s') {a a' : Word} (ha : a' = a) : AgreeOn rs (s.setIndex a) (s'.setIndex a') :=
  { h with i := ha }

theorem setDt (h : AgreeOn rs s s') {b b' : Byte} (hb : b' = b) : AgreeOn rs (s.setDt b) (s'.setDt b') :=
  { h with dt := hb }

theorem setSt (h : AgreeOn rs s s') {b b' : Byte} (hb : b' = b) : AgreeOn rs (s.setSt b) (s'.setSt b') :=
  { h with st := hb }

theorem setPix (h : AgreeOn rs s s') {p p' : Plane} (hp : p' = p) : AgreeOn rs (s.setPix p) (s'.setPix p') :=
  { h with pix := hp }

theorem storeBytes (h : AgreeOn rs s s') {bytes bytes' : List Byte} (hb : bytes' = bytes) :
    AgreeOn rs (s.storeBytes bytes) (s'.storeBytes bytes') :=
  { h with mem := fun a => by simp [Memory.read_writeList, h.i, h.mem, hb] }

theorem push (h : AgreeOn rs s s') {a a' : Word} (ha : a' = a) (hs : s.sp.val < 16) (hs' : s'.sp.val < 16) :
    AgreeOn rs (s.push a hs) (s'.push a' hs') :=
  { h with stack := by simp [h.stack, h.sp, ha], sp := by simp [h.sp] }

theorem pop (h : AgreeOn rs s s') : AgreeOn rs s.pop s'.pop := { h with sp := by simp [h.sp] }

theorem top (h : AgreeOn rs s s') (hs : 0 < s.sp.val) (hs' : 0 < s'.sp.val) : s'.top hs' = s.top hs := by
  simp [State.top, h.stack, h.sp]

theorem takeRand (h : AgreeOn rs s s') : AgreeOn rs s.takeRand s'.takeRand := by
  cases hs : s.rand with
  | nil =>
    rw [(s.takeRand_nil hs).2, (s'.takeRand_nil (h.rand.trans hs)).2]
    exact { h with draws := by rw [h.draws] }
  | cons b bs =>
    rw [(s.takeRand_cons hs).2, (s'.takeRand_cons (h.rand.trans hs)).2]
    exact { h with rand := rfl }

theorem setReg (h : AgreeOn rs s s') (x : RegNum) {b b' : Byte} (hb : b' = b) :
    AgreeOn [x] (s.setReg x b) (s'.setReg x b') :=
  { h with regs := by simp [hb] }

theorem setFlag (h : AgreeOn rs s s') {b b' : Bool} (hb : b' = b) : AgreeOn [vf] (s.setFlag b) (s'.setFlag b') :=
  h.setReg vf (by rw [hb])

theorem setFlagged (h : AgreeOn rs s s') (x : RegNum) {f f' : Flagged} (hf : f' = f) :
    AgreeOn [x, vf] (s.setFlagged x f) (s'.setFlagged x f') :=
  { h with regs := by simp [State.reg_setFlagged, hf] }

theorem loadRegs (h : AgreeOn rs s s') (x : RegNum) :
    AgreeOn ((List.finRange 16).filter (· ≤ x)) (s.loadRegs x) (s'.loadRegs x) := by
  refine agreeOn_iff.2 ⟨(keptBut_iff ..).2 ?_, fun r hr => ?_⟩
  · simp [h.i, h.pc, h.stack, h.sp, h.dt, h.st, h.mem, h.pix, h.key, h.rand, h.draws]
  · have hrx : r ≤ x := by simpa using hr
    simp [State.reg_loadRegs, hrx, h.i, h.mem]

end AgreeOn

/-! ## Answers that agree -/

/-- When the first answer is a next state, so is the second, and the two agree on `rs`. -/
def NextAgreeOn (rs : List RegNum) (a a' : Result) : Prop := ∀ t, a = .next t → ∃ t', a' = .next t' ∧ AgreeOn rs t t'

theorem AgreeOn.goto (h : AgreeOn rs s s') {a a' : Word} (ha : a' = a) : NextAgreeOn rs (s.goto a) (s'.goto a') := by
  intro t ht
  obtain rfl := (State.goto_eq_next ..).1 ht
  exact ⟨s'.setPc a', rfl, ha ▸ h.setPc a'⟩

theorem AgreeOn.advance (h : AgreeOn rs s s') : NextAgreeOn rs s.advance s'.advance := h.goto (by rw [h.pc])

theorem AgreeOn.skipIf (h : AgreeOn rs s s') {c c' : Bool} (hc : c' = c) : NextAgreeOn rs (s.skipIf c) (s'.skipIf c') :=
  h.goto (by rw [h.pc, hc])

theorem AgreeOn.block (h : AgreeOn rs s s') : NextAgreeOn rs s.block s'.block := by
  rintro t ⟨⟩
  exact ⟨s', rfl, h⟩

theorem NextAgreeOn.raise (f : Fault) (a' : Result) : NextAgreeOn rs (raise f) a' :=
  fun t ht => absurd ht (raise_ne_next f t)

theorem NextAgreeOn.guardRange {rs' : List RegNum} (h : AgreeOn rs' s s') {a a' : Result} (ha : NextAgreeOn rs a a')
    (k : Nat) : NextAgreeOn rs (s.guardRange k a) (s'.guardRange k a') := by
  intro t ht
  obtain ⟨hok, hnext⟩ := State.guardRange_eq_next.1 ht
  rw [State.guardRange_of_ok (by rwa [State.RangeOk, h.i])]
  exact ha t hnext

/-! ## Every instruction -/

theorem nextAgreeOn_ret (h : AgreeOn [] s s') : NextAgreeOn [] (execRet s) (execRet s') := by
  unfold execRet
  by_cases hs : 0 < s.sp.val
  · have hs' : 0 < s'.sp.val := by rwa [h.sp]
    rw [dif_pos hs, dif_pos hs']
    exact h.pop.goto (h.top hs hs')
  · rw [dif_neg hs]
    exact NextAgreeOn.raise _ _

theorem nextAgreeOn_call (h : AgreeOn [] s s') (nnn : Addr12) : NextAgreeOn [] (execCall nnn s) (execCall nnn s') := by
  unfold execCall
  by_cases hs : s.sp.val < 16
  · have hs' : s'.sp.val < 16 := by rwa [h.sp]
    rw [dif_pos hs, dif_pos hs']
    exact (h.push (by rw [h.pc]) hs hs').goto rfl
  · rw [dif_neg hs]
    exact NextAgreeOn.raise _ _

theorem nextAgreeOn_waitKeyPress (h : AgreeOn [] s s') (x : RegNum) :
    NextAgreeOn (s.regWrites (.waitKeyPress x)) (execWaitKeyPress x s) (execWaitKeyPress x s') := by
  unfold execWaitKeyPress
  cases hk : s.firstPressed <;> simp only [State.regWrites, h.firstPressed, hk]
  · exact h.block
  · exact (h.setReg x rfl).advance

/-- In two states that agree on the registers the table says it reads, an instruction does the same up to registers, and writes the
same to the registers the table says it writes. -/
theorem exec_nextAgreeOn (i : Instr) (h : AgreeOn (regReads i) s s') :
    NextAgreeOn (s.regWrites i) (exec i s) (exec i s') := by
  have reads := h.regs
  cases i with
  | cls => exact (h.setPix rfl).advance
  | ret => exact nextAgreeOn_ret h
  | jump => exact h.goto rfl
  | call nnn => exact nextAgreeOn_call h nnn
  | skipEqConst | skipNeqConst | skipEqReg | skipNeqReg =>
    simp only [regReads] at reads
    exact h.nil.skipIf (by simp [reads])
  | skipKey | skipNotKey =>
    simp only [regReads] at reads
    exact h.nil.skipIf (by simp [State.keyNum, h.keyDown, reads])
  | jumpOffset =>
    simp only [regReads] at reads
    exact h.nil.goto (by simp [State.offsetTarget, reads])
  | loadConst => exact (h.setReg _ rfl).advance
  | addConst | move | or | and | xor =>
    simp only [regReads] at reads
    exact (h.setReg _ (by simp [reads])).advance
  | loadDelay => exact (h.setReg _ h.dt).advance
  | random => exact (h.takeRand.setReg _ (by rw [h.randByte])).advance
  | add | sub | shiftRight | subN | shiftLeft =>
    simp only [regReads] at reads
    exact (h.setFlagged _ (by simp [reads])).advance
  | waitKeyPress x => exact nextAgreeOn_waitKeyPress h x
  | setDelay =>
    simp only [regReads] at reads
    exact (h.nil.setDt (by simp [reads])).advance
  | setSound =>
    simp only [regReads] at reads
    exact (h.nil.setSt (by simp [reads])).advance
  | setIndex => exact (h.setIndex rfl).advance
  | addIndex =>
    simp only [regReads] at reads
    exact (h.nil.setIndex (by simp [State.indexSum, h.i, reads])).advance
  | spriteAddr =>
    simp only [regReads] at reads
    exact (h.nil.setIndex (by simp [State.glyphAddr, reads])).advance
  | draw x y n =>
    simp only [regReads] at reads
    have hblit : s'.pix.draw (s'.sprite x y n) = s.pix.draw (s.sprite x y n) := by
      simp [State.sprite, h.pix, h.i, h.readList, reads]
    exact ((h.setPix (by rw [hblit])).setFlag (by rw [hblit])).advance.guardRange h _
  | bcd =>
    simp only [regReads] at reads
    exact (h.nil.storeBytes (by simp [reads])).advance.guardRange h _
  | store x =>
    have hbytes : s'.regsUpTo x = s.regsUpTo x := State.regsUpTo_congr fun r hr => reads r (by simp [regReads, hr])
    exact (h.nil.storeBytes hbytes).advance.guardRange h _
  | load x => exact (h.loadRegs x).advance.guardRange h _

/-! ## The registers an instruction writes -/

variable {t : State}

/-- An instruction writes only the registers the table says it writes; one whose table of parts has no registers writes none. -/
theorem exec_regsKeptBut {i : Instr} (h : exec i s = .next t) : RegsKeptBut (s.regWrites i) s t := by
  have kept := exec_nextKeptBut i s t h .regs
  cases i with
  | loadConst | addConst | move | or | and | xor | loadDelay =>
    obtain rfl := (State.advance_eq_next ..).1 h
    exact RegsKeptBut.setReg _ _ _ _
  | random =>
    obtain rfl := (State.advance_eq_next ..).1 h
    exact fun r hr => (RegsKeptBut.setReg _ _ _ _ r hr).trans (State.reg_takeRand s r)
  | add | sub | shiftRight | subN | shiftLeft =>
    obtain rfl := (State.advance_eq_next ..).1 h
    exact RegsKeptBut.setFlagged _ _ _ _
  | draw =>
    obtain rfl := (State.advance_eq_next ..).1 (State.guardRange_eq_next.1 h).2
    exact RegsKeptBut.setReg _ _ _ _
  | waitKeyPress x =>
    unfold State.regWrites
    simp only [exec, execWaitKeyPress] at h
    split at h
    · obtain rfl : s = t := by simpa [State.block] using h
      exact fun _ _ => rfl
    · rename_i hk
      obtain rfl := (State.advance_eq_next ..).1 h
      rw [hk]
      exact RegsKeptBut.setReg _ _ _ _
  | load x =>
    obtain rfl := (State.advance_eq_next ..).1 (State.guardRange_eq_next.1 h).2
    intro r hr
    have hrx : ¬r ≤ x := by simpa [State.regWrites] using hr
    simp [State.reg_loadRegs, hrx]
  | cls | ret | jump | call | skipEqConst | skipNeqConst | skipEqReg | skipNeqReg | setIndex | jumpOffset | skipKey
  | skipNotKey | setDelay | setSound | addIndex | spriteAddr | bcd | store =>
    exact fun r _ => kept (by simp [partWrites]) r

/-- Settles O52: the executions agree by one rule per update, and each keeps the registers it does not write. -/
theorem registerUse : Obligations.RegisterUse := by
  unfold Obligations.RegisterUse
  intro i s s' t hkept hreads hexec
  have hagree : AgreeOn (regReads i) s s' := agreeOn_iff.2 ⟨hkept, hreads⟩
  obtain ⟨t', hexec', hagree'⟩ := exec_nextAgreeOn i hagree t hexec
  obtain ⟨hkept', hwrites⟩ := agreeOn_iff.1 hagree'
  exact ⟨t', hexec', hkept', hwrites, exec_regsKeptBut hexec, hagree.regWrites i ▸ exec_regsKeptBut hexec'⟩

end Sys2Proof.Machine
end

section
/-! Memory: the fetch that reads it, what an access outside it raises, its canonical form, and the bytes that `Store` and the loader
put there (spec/20_memory.md). -/

namespace Sys2Proof.Machine

variable {s t : State}

/-! ## Fetch and decode (spec/20_memory.md R57, R58) -/

theorem State.fetchedWord_eq (s : State) :
    s.fetchedWord = s.mem.read s.pc.toNat ++ s.mem.read (s.pc.toNat + 1) := rfl

theorem State.fetch_of_ge (h : 4094 ≤ s.pc.toNat) : s.fetch = .error (.outOfBounds s.pc s.pc.toNat) := if_pos h

theorem State.fetch_of_lt (h : s.pc.toNat < 4094) : s.fetch = .ok s.fetchedWord := if_neg (Nat.not_le.2 h)

theorem State.fetchDecode_eq_ok_iff {i : Instr} :
    s.fetchDecode = .ok i ↔ s.pc.toNat < 4094 ∧ decode s.fetchedWord = .ok i := by
  unfold State.fetchDecode
  rcases Nat.lt_or_ge s.pc.toNat 4094 with h | h
  · cases hd : decode s.fetchedWord <;> simp [State.fetch_of_lt h, hd, h]
  · simp [State.fetch_of_ge h, h]

theorem State.fetchDecode_eq_error_iff {f : Fault} :
    s.fetchDecode = .error f ↔
      (4094 ≤ s.pc.toNat ∧ f = .outOfBounds s.pc s.pc.toNat) ∨
      (s.pc.toNat < 4094 ∧ (∃ e, decode s.fetchedWord = .error e) ∧ f = .decodeError s.pc s.fetchedWord) := by
  unfold State.fetchDecode
  rcases Nat.lt_or_ge s.pc.toNat 4094 with h | h
  · cases hd : decode s.fetchedWord <;> simp [State.fetch_of_lt h, hd, h, eq_comm]
  · simp [State.fetch_of_ge h, h, Nat.not_lt.2 h, eq_comm]

/-! ## What a step can raise -/

theorem step_eq_fault_iff {f : Fault} :
    step s = .fault f ↔ s.fetchDecode = .error f ∨ ∃ i, s.fetchDecode = .ok i ∧ exec i s = .fault f := by
  unfold step
  cases s.fetchDecode <;> simp

theorem step_of_decode {i : Instr} (hpc : s.pc.toNat < 4094) (hi : decode s.fetchedWord = .ok i) : step s = exec i s := by
  simp [step, State.fetchDecode_eq_ok_iff.2 ⟨hpc, hi⟩]

/-- How many bytes of memory an instruction accesses through `I` (spec/20_memory.md R56). -/
def accessLength : Instr → Nat
  | .bcd _ => 3
  | .store x | .load x => x.val + 1
  | .draw _ _ n => n.val
  | _ => 0

/-- Everything an instruction can raise (spec/60_exceptions.md R243 to R245). -/
theorem exec_eq_fault_iff {i : Instr} {f : Fault} :
    exec i s = .fault f ↔
      (i = .ret ∧ s.sp.val = 0 ∧ f = .stackUnderflow s.pc) ∨
      ((∃ nnn, i = .call nnn) ∧ s.sp.val = 16 ∧ f = .stackOverflow s.pc) ∨
      (¬s.RangeOk (accessLength i) ∧ f = .outOfBounds s.pc (max s.i.toNat 4096)) := by
  have noAccess : s.RangeOk 0 := .inl rfl
  cases i with
  | bcd | store | load | draw =>
    simp only [reduceCtorEq, false_and, exists_false, false_or]
    exact State.guardRange_eq_fault (State.advance_ne_fault _)
  | ret =>
    simp only [exec, execRet, accessLength]
    by_cases h : 0 < s.sp.val
    · simp [h, noAccess, Nat.ne_of_gt h]
    · simp [noAccess, Nat.eq_zero_of_not_pos h, raise, eq_comm]
  | call nnn =>
    have hle : s.sp.val ≤ 16 := Nat.le_of_lt_succ s.sp.isLt
    simp only [exec, execCall, accessLength]
    by_cases h : s.sp.val < 16
    · simp [h, noAccess, Nat.ne_of_lt h]
    · simp [noAccess, Nat.le_antisymm hle (Nat.not_lt.1 h), raise, eq_comm]
  | waitKeyPress x =>
    simp only [exec, execWaitKeyPress, accessLength]
    cases s.firstPressed <;> simp [State.block, noAccess]
  | jump | jumpOffset => exact iff_of_false (State.goto_ne_fault _ _ _) (by simp [accessLength, noAccess])
  | skipEqConst | skipNeqConst | skipEqReg | skipNeqReg | skipKey | skipNotKey =>
    exact iff_of_false (State.skipIf_ne_fault _ _ _) (by simp [accessLength, noAccess])
  | cls | loadConst | addConst | move | or | and | xor | add | sub | shiftRight | subN | shiftLeft | setIndex | random
  | loadDelay | setDelay | setSound | addIndex | spriteAddr =>
    exact iff_of_false (State.advance_ne_fault _ _) (by simp [accessLength, noAccess])

theorem exec_ne_decodeError (i : Instr) (pc w : Word) : exec i s ≠ .fault (.decodeError pc w) := by
  simp [exec_eq_fault_iff]

/-- Settles O7: the fetch fails from 4094 on, the decoder raises the rest, and no execution raises `DecodeError`. -/
theorem fetchAndDecodeErrors : Obligations.FetchAndDecodeErrors := by
  unfold Obligations.FetchAndDecodeErrors
  refine fun s => ⟨fun h => ⟨State.fetch_of_ge h, ?_⟩, State.fetch_of_lt, fun pc w => ?_⟩
  · exact step_eq_fault_iff.2 (.inl (State.fetchDecode_eq_error_iff.2 (.inl ⟨h, rfl⟩)))
  · rw [step_eq_fault_iff, State.fetchDecode_eq_error_iff, ← State.fetchedWord_eq]
    simp only [reduceCtorEq, Fault.decodeError.injEq, exec_ne_decodeError, and_false, exists_false, false_or, or_false]
    exact ⟨fun ⟨h, he, hpc, hw⟩ => ⟨h, hpc, hw, hw ▸ he⟩, fun ⟨h, hpc, hw, he⟩ => ⟨h, hw ▸ he, hpc, hw⟩⟩

theorem exec_fault_of_range {i : Instr} {k : Nat} (hi : accessLength i = k) (hk : 0 < k) (h : 4096 < s.i.toNat + k) :
    exec i s = .fault (.outOfBounds s.pc (max s.i.toNat 4096)) := by
  refine exec_eq_fault_iff.2 (.inr (.inr ⟨?_, rfl⟩))
  rw [hi, State.RangeOk]
  omega

/-- Settles O31: each of the four raises when its range leaves memory, and an empty range never does. -/
theorem rangeErrors : Obligations.RangeErrors := by
  unfold Obligations.RangeErrors
  intro s x y n
  refine ⟨fun h => ?bcd, fun h => ?store, fun h => ?load, fun hn h => ?draw, fun hn => ?drawNoRows⟩
  case bcd => exact exec_fault_of_range (k := 3) rfl (by omega) (by omega)
  case store | load => exact exec_fault_of_range (k := x.val + 1) rfl (by omega) (by omega)
  case draw => exact exec_fault_of_range (k := n.val) rfl hn (by omega)
  case drawNoRows => exact ⟨_, State.guardRange_of_ok (.inl hn) _⟩

/-! ## The canonical form is extensional -/

theorem Memory.read_of_not_listed {m : Memory} {a : Nat} (h : ∀ c ∈ m, c.1 ≠ a) : m.read a = Memory.initial a := by
  induction m with
  | nil => rfl
  | cons c m ih =>
    rw [Memory.read_cons, if_neg (h c (by simp))]
    exact ih fun d hd => h d (by simp [hd])

theorem Memory.read_of_mem {m : Memory} (hm : m.Pairwise fun c d => c.1 < d.1) {c : Host.Cell} (hc : c ∈ m) :
    m.read c.1 = c.2 := by
  induction m with
  | nil => simp at hc
  | cons d m ih =>
    obtain ⟨hd, hm⟩ := List.pairwise_cons.1 hm
    rw [Memory.read_cons]
    rcases List.mem_cons.1 hc with rfl | hc
    · exact if_pos rfl
    · rw [if_neg (Nat.ne_of_lt (hd c hc)), ih hm hc]

/-- A canonical memory lists exactly the bytes that read otherwise than unlisted. -/
theorem Memory.mem_iff_read {m : Memory} (hm : m.wf = true) (c : Host.Cell) :
    c ∈ m ↔ m.read c.1 = c.2 ∧ c.2 ≠ Memory.initial c.1 := by
  obtain ⟨hsorted, hok⟩ := (Memory.wf_iff m).1 hm
  constructor
  · intro hc
    have hcell := hok c hc
    simp only [cellOk, Bool.and_eq_true, decide_eq_true_eq] at hcell
    exact ⟨Memory.read_of_mem hsorted hc, hcell.2⟩
  · rintro ⟨hread, hne⟩
    by_contra hc
    refine hne (hread ▸ Memory.read_of_not_listed fun d hd ha => hc ?_)
    have hval : d.2 = c.2 := by rw [← hread, ← ha, Memory.read_of_mem hsorted hd]
    rwa [← Prod.ext ha hval]

/-- Settles O34: both lists have the same members, since membership is a matter of what is read, and both are sorted. -/
theorem canonicalMemoriesThatReadAlikeAreEqual : Obligations.CanonicalMemoriesThatReadAlikeAreEqual := by
  unfold Obligations.CanonicalMemoriesThatReadAlikeAreEqual
  intro m m' hm hm' hread
  have hirrefl : Std.Irrefl fun c d : Host.Cell => c.1 < d.1 := ⟨fun c => Nat.lt_irrefl c.1⟩
  have hantisymm : Std.Antisymm fun c d : Host.Cell => c.1 < d.1 := ⟨fun _ _ h h' => absurd h' (Nat.lt_asymm h)⟩
  refine ((Memory.wf_iff m).1 hm).1.eq_of_mem_iff ((Memory.wf_iff m').1 hm').1 fun c => ?_
  rw [Memory.mem_iff_read hm, Memory.mem_iff_read hm', hread]

/-! ## `Store`, then a fetch of what it wrote -/

theorem exec_store_eq_next {x : RegNum} :
    exec (.store x) s = .next t ↔ s.RangeOk (x.val + 1) ∧ t = (s.storeBytes (s.regsUpTo x)).setPc (s.pc + 2) := by
  simp [exec, execStore, State.guardRange_eq_next]

theorem read_of_exec_store {x r : RegNum} (h : exec (.store x) s = .next t) (hr : r ≤ x) :
    t.mem.read (s.i.toNat + r.val) = s.reg r := by
  obtain ⟨-, rfl⟩ := exec_store_eq_next.1 h
  have hlen : r.val < (s.regsUpTo x).length := by simpa using Nat.lt_succ_of_le hr
  exact (Memory.read_writeList_inside hlen).trans (State.regsUpTo_getElem s x r.val hlen)

/-- Settles O33: the fetch reads memory as it is, and the two bytes are the stored registers. -/
theorem storedBytesAreExecuted : Obligations.StoredBytesAreExecuted := by
  unfold Obligations.StoredBytesAreExecuted
  intro s t u x r r' i hstore hnext hr' hmem hpc hlimit hi
  have hr : r ≤ x := Fin.le_def.2 (by have := Fin.le_def.1 hr'; omega)
  have hword : u.fetchedWord = s.reg r ++ s.reg r' := by
    rw [State.fetchedWord_eq, hmem, hmem, hpc, Nat.add_assoc, ← hnext, read_of_exec_store hstore hr,
      read_of_exec_store hstore hr']
  exact step_of_decode hlimit (hword ▸ hi)

/-! ## The loader boundary (spec/70_reset_and_hazards.md R284) -/

theorem transition_load_of_le {bytes : List Byte} (h : bytes.length ≤ 3583) :
    transition s (.load bytes) = ({ s with mem := s.mem.writeList 512 bytes }, .loaded true) := by
  simp [transition, State.load, Nat.not_lt.2 h]

/-- Settles O46: the bytes are written from 512 on, and no other operation's table of parts names memory. -/
theorem loadWritesTheProgram : Obligations.LoadWritesTheProgram := by
  unfold Obligations.LoadWritesTheProgram
  constructor
  · intro s bytes hlen
    have kept := transition_keptBut (.load bytes) s
    rw [transition_load_of_le hlen] at kept
    exact ⟨_, transition_load_of_le hlen, fun _ hj => Memory.read_writeList_inside hj,
      fun _ ha => Memory.read_writeList_outside ha, kept⟩
  · intro s op hstep hreset hload
    refine transition_keptBut op s .mem ?_
    cases op with
    | step b => exact absurd rfl (hstep b)
    | reset => exact absurd rfl hreset
    | load bytes => exact absurd rfl (hload bytes)
    | tickTimers | keySet | displayRead | decode => simp [Operation.partWrites]

end Sys2Proof.Machine
end

section
/-! The encoding: decoder and encoder are inverse to each other up to the ignored nibbles, the decoder rejects the listed words, and
it is the map of 34 rows (spec/30_encoding.md R95 to R103). -/

namespace Sys2Proof

open Machine

/-- Settles O1: the five decodings, evaluated. -/
theorem workedDecodings : Obligations.WorkedDecodings := ⟨rfl, rfl, rfl, rfl, _, rfl⟩

/-! ## Decode after encode -/

@[simp] theorem toFin_nibble (n : Fin 16) : (nibble n).toFin = n := rfl

/-- Settles O2: by the format of the instruction's word, whose fields are the operands and the digits that select the arm. -/
theorem decodeUndoesEncode : Obligations.DecodeUndoesEncode := by
  unfold Obligations.DecodeUndoesEncode
  intro i
  cases i with
  | cls | ret => rfl
  | jump | call | setIndex | jumpOffset => simp [encode, decode]
  | skipEqConst | skipNeqConst | loadConst | addConst | random => simp [encode, decode]
  | skipNeqReg | draw => simp [encode, decode]
  | skipEqReg => simp [encode, decode, decodeFamily5]
  | move | or | and | xor | add | sub | shiftRight | subN | shiftLeft => simp [encode, decode, decodeFamily8]
  | skipKey | skipNotKey => simp [encode, decode, decodeFamilyE]
  | loadDelay | waitKeyPress | setDelay | setSound | addIndex | spriteAddr | bcd | store | load =>
    simp [encode, decode, decodeFamilyF]

/-! ## A word from its fields -/

section
variable {w : Word} {f : BitVec 4}

theorem wordNNN_of_fields (hf : (fieldF w).toNat = f.toNat) : wordNNN f (fieldNNN w) = w := by
  apply BitVec.eq_of_toNat_eq
  rw [wordNNN_toNat, ← hf, fieldF_toNat, fieldNNN_toNat]
  omega

theorem wordXKK_of_fields {kk : Byte} (hf : (fieldF w).toNat = f.toNat) (hk : (fieldKK w).toNat = kk.toNat) :
    wordXKK f (fieldX w) kk = w := by
  apply BitVec.eq_of_toNat_eq
  rw [wordXKK_toNat, ← hf, ← hk, fieldF_toNat, fieldX_val, fieldKK_toNat]
  omega

theorem wordXYN_of_fields {n : BitVec 4} (hf : (fieldF w).toNat = f.toNat) (hn : (fieldN w).val = n.toNat) :
    wordXYN f (fieldX w) (fieldY w) n = w := by
  apply BitVec.eq_of_toNat_eq
  rw [wordXYN_toNat, ← hf, ← hn, fieldF_toNat, fieldX_val, fieldY_val, fieldN_val]
  omega

end

/-! ## Encode after decode -/

theorem wordXYN_clear_y (f : BitVec 4) (x y : RegNum) (n : BitVec 4) :
    wordXYN f x y n &&& ~~~0x00F0#16 = wordXYN f x 0 n := by
  rw [wordXYN, show ~~~0x00F0#16 = 15#4 ++ 15#4 ++ 0#4 ++ 15#4 from rfl, BitVec.and_append,
    BitVec.and_append, BitVec.and_append]
  simp [Laws.EncodesToItsRow.and_ones4, wordXYN, nibble]

theorem wordXYN_clear_n (f : BitVec 4) (x y : RegNum) (n : BitVec 4) :
    wordXYN f x y n &&& ~~~0x000F#16 = wordXYN f x y 0 := by
  rw [wordXYN, show ~~~0x000F#16 = 15#4 ++ 15#4 ++ 15#4 ++ 0#4 from rfl, BitVec.and_append,
    BitVec.and_append, BitVec.and_append]
  simp [Laws.EncodesToItsRow.and_ones4, wordXYN]

/-- The instruction's word is `w` with the nibbles that the instruction ignores 0. -/
def Restores (w : Word) (i : Instr) : Prop := encode i = w &&& ~~~ignoredMask i

section
variable {w : Word} {i : Instr}

theorem Restores.of_eq (h : encode i = w) (hi : ignoredMask i = 0x0000#16) : Restores w i := by
  rw [Restores, h, hi, BitVec.not_zero, BitVec.and_allOnes]

theorem Restores.of_clear_y {f n : BitVec 4} (he : encode i = wordXYN f (fieldX w) 0 n) (hi : ignoredMask i = 0x00F0#16)
    (hf : (fieldF w).toNat = f.toNat) (hn : (fieldN w).val = n.toNat) : Restores w i := by
  rw [Restores, hi, he, ← wordXYN_clear_y f (fieldX w) (fieldY w) n, wordXYN_of_fields hf hn]

theorem restores_skipNeqReg (hf : (fieldF w).toNat = 9) : Restores w (.skipNeqReg (fieldX w) (fieldY w)) := by
  have hw : wordXYN 9#4 (fieldX w) (fieldY w) (nibble (fieldN w)) = w := wordXYN_of_fields hf rfl
  have hclear := wordXYN_clear_n 9#4 (fieldX w) (fieldY w) (nibble (fieldN w))
  rw [hw] at hclear
  exact hclear.symm

theorem decodeFamily0_restores (h : decodeFamily0 w = .ok i) : Restores w i := by
  unfold decodeFamily0 at h
  split at h
  next hw => cases h; exact .of_eq hw.symm rfl
  next =>
    split at h
    next hw => cases h; exact .of_eq hw.symm rfl
    next => cases h

theorem decodeFamily5_restores (hf : (fieldF w).toNat = 5) (h : decodeFamily5 w = .ok i) : Restores w i := by
  unfold decodeFamily5 at h
  split at h
  next hn => cases h; exact .of_eq (wordXYN_of_fields hf hn) rfl
  next => cases h

theorem decodeFamily8_restores (hf : (fieldF w).toNat = 8) (h : decodeFamily8 w = .ok i) : Restores w i := by
  generalize hn : (fieldN w).val = n
  simp only [decodeFamily8, hn] at h
  match n, hn, h with
  | 0x6, hn, h | 0xE, hn, h => cases h; exact .of_clear_y rfl rfl hf hn
  | 0x0, hn, h | 0x1, hn, h | 0x2, hn, h | 0x3, hn, h | 0x4, hn, h | 0x5, hn, h | 0x7, hn, h =>
    cases h; exact .of_eq (wordXYN_of_fields hf hn) rfl
  | 0x8, _, h | 0x9, _, h | 0xA, _, h | 0xB, _, h | 0xC, _, h | 0xD, _, h | 0xF, _, h => cases h

theorem decodeFamilyE_restores (hf : (fieldF w).toNat = 14) (h : decodeFamilyE w = .ok i) : Restores w i := by
  unfold decodeFamilyE at h
  split at h <;> cases h
  all_goals exact .of_eq (wordXKK_of_fields hf ‹_›) rfl

theorem decodeFamilyF_restores (hf : (fieldF w).toNat = 15) (h : decodeFamilyF w = .ok i) : Restores w i := by
  unfold decodeFamilyF at h
  split at h <;> cases h
  all_goals exact .of_eq (wordXKK_of_fields hf ‹_›) rfl

theorem decode_restores (h : decode w = .ok i) : Restores w i := by
  generalize hf : (fieldF w).toNat = f
  simp only [decode, hf] at h
  match f, hf, h with
  | 0x0, _, h => exact decodeFamily0_restores h
  | 0x5, hf, h => exact decodeFamily5_restores hf h
  | 0x8, hf, h => exact decodeFamily8_restores hf h
  | 0x9, hf, h => cases h; exact restores_skipNeqReg hf
  | 0xD, hf, h => cases h; exact .of_eq (wordXYN_of_fields hf rfl) rfl
  | 0xE, hf, h => exact decodeFamilyE_restores hf h
  | 0xF, hf, h => exact decodeFamilyF_restores hf h
  | 0x1, hf, h | 0x2, hf, h | 0xA, hf, h | 0xB, hf, h => cases h; exact .of_eq (wordNNN_of_fields hf) rfl
  | 0x3, hf, h | 0x4, hf, h | 0x6, hf, h | 0x7, hf, h | 0xC, hf, h =>
    cases h; exact .of_eq (wordXKK_of_fields hf rfl) rfl
  | _ + 16, hf, _ => exact absurd (fieldF w).isLt (by omega)

end

/-- Settles O3: by the family of the word, which the instruction's digits and operands put together again. -/
theorem encodeRestoresTheWordButIgnoredNibbles : Obligations.EncodeRestoresTheWordButIgnoredNibbles := by
  unfold Obligations.EncodeRestoresTheWordButIgnoredNibbles
  exact fun _ _ => decode_restores

/-! ## The rejected words (spec/30_encoding.md R97) -/

section
variable (w : Word)

theorem decodeFamily0_rejects_iff : (∃ e, decodeFamily0 w = .error e) ↔ w.toNat ≠ 0x00E0 ∧ w.toNat ≠ 0x00EE := by
  unfold decodeFamily0
  simp only [← BitVec.toNat_inj]
  split
  next h => simp [h]
  next h =>
    split
    next h' => simp [h']
    next h' => exact ⟨fun _ => ⟨h, h'⟩, fun _ => ⟨_, rfl⟩⟩

theorem decodeFamily5_rejects_iff : (∃ e, decodeFamily5 w = .error e) ↔ w.toNat % 16 ≠ 0 := by
  unfold decodeFamily5
  rw [fieldN_val]
  split <;> simp_all

theorem decodeFamily8_rejects_iff :
    (∃ e, decodeFamily8 w = .error e) ↔ w.toNat % 16 ∈ [0x8, 0x9, 0xA, 0xB, 0xC, 0xD, 0xF] := by
  have hlt : w.toNat % 16 < 16 := Nat.mod_lt _ (by decide)
  unfold decodeFamily8
  rw [fieldN_val]
  generalize w.toNat % 16 = n at hlt
  interval_cases n <;> simp

theorem decodeFamilyE_rejects_iff : (∃ e, decodeFamilyE w = .error e) ↔ w.toNat % 256 ∉ [0x9E, 0xA1] := by
  unfold decodeFamilyE
  rw [fieldKK_toNat]
  split <;> simp_all

theorem decodeFamilyF_rejects_iff :
    (∃ e, decodeFamilyF w = .error e) ↔
      w.toNat % 256 ∉ [0x07, 0x0A, 0x15, 0x18, 0x1E, 0x29, 0x33, 0x55, 0x65] := by
  unfold decodeFamilyF
  rw [fieldKK_toNat]
  split <;> simp_all

theorem decode_rejects_iff : (∃ e, decode w = .error e) ↔ IllegalWord w.toNat := by
  have hlt : w.toNat / 4096 < 16 := by omega
  unfold decode IllegalWord
  rw [fieldF_toNat]
  generalize w.toNat / 4096 = f at hlt
  match f, hlt with
  | 0x0, _ => simpa using decodeFamily0_rejects_iff w
  | 0x5, _ => simpa using decodeFamily5_rejects_iff w
  | 0x8, _ => simpa using decodeFamily8_rejects_iff w
  | 0xE, _ => simpa using decodeFamilyE_rejects_iff w
  | 0xF, _ => simpa using decodeFamilyF_rejects_iff w
  | 0x1, _ | 0x2, _ | 0x3, _ | 0x4, _ | 0x6, _ | 0x7, _ | 0x9, _ | 0xA, _ | 0xB, _ | 0xC, _ | 0xD, _ => simp
  | _ + 16, hlt => omega

end

/-- Settles O5: the family picks one part of the list, which is what that family's decoder rejects. -/
theorem rejectedWordsAreTheIllegalWords : Obligations.RejectedWordsAreTheIllegalWords := by
  unfold Obligations.RejectedWordsAreTheIllegalWords
  exact decode_rejects_iff

/-! ## The opcode map (spec/30_encoding.md R95) -/

/-- Every instruction's word selects the instruction's row: the family of lemmas of Laws/PerInstr.lean as one. -/
theorem Laws.EncodesToItsRow.all : ∀ i, Statement i
  | .cls => cls
  | .ret => ret
  | .jump _ => jump _
  | .call _ => call _
  | .skipEqConst _ _ => skipEqConst _ _
  | .skipNeqConst _ _ => skipNeqConst _ _
  | .skipEqReg _ _ => skipEqReg _ _
  | .loadConst _ _ => loadConst _ _
  | .addConst _ _ => addConst _ _
  | .move _ _ => move _ _
  | .or _ _ => or _ _
  | .and _ _ => and _ _
  | .xor _ _ => xor _ _
  | .add _ _ => add _ _
  | .sub _ _ => sub _ _
  | .shiftRight _ => shiftRight _
  | .subN _ _ => subN _ _
  | .shiftLeft _ => shiftLeft _
  | .skipNeqReg _ _ => skipNeqReg _ _
  | .setIndex _ => setIndex _
  | .jumpOffset _ => jumpOffset _
  | .random _ _ => random _ _
  | .draw _ _ _ => draw _ _ _
  | .skipKey _ => skipKey _
  | .skipNotKey _ => skipNotKey _
  | .loadDelay _ => loadDelay _
  | .waitKeyPress _ => waitKeyPress _
  | .setDelay _ => setDelay _
  | .setSound _ => setSound _
  | .addIndex _ => addIndex _
  | .spriteAddr _ => spriteAddr _
  | .bcd _ => bcd _
  | .store _ => store _
  | .load _ => load _

section
variable {r r' : OpcodeRow} {w : Word}

theorem OpcodeRow.selects_iff : r.selects w = true ↔ w &&& r.mask = r.value := by
  simp [OpcodeRow.selects]

/-- Bits a row fixes stand in the words that select it. -/
theorem OpcodeRow.extractLsb'_of_selects {start len : Nat} (h : r.selects w = true)
    (hm : r.mask.extractLsb' start len = BitVec.allOnes len) : w.extractLsb' start len = r.value.extractLsb' start len := by
  rw [← OpcodeRow.selects_iff.1 h, BitVec.extractLsb'_and, hm, BitVec.and_allOnes]

theorem opcodeRow_fixes_family : ∀ r ∈ opcodeMap, r.mask.extractLsb' 12 4 = BitVec.allOnes 4 := by decide

theorem fieldF_of_selects (hr : r ∈ opcodeMap) (h : r.selects w = true) : fieldF w = fieldF r.value :=
  OpcodeRow.extractLsb'_of_selects h (opcodeRow_fixes_family r hr)

/-! ### A word selects one row at most -/

/-- Two rows differ in a bit both fix. -/
theorem opcodeMap_pairwise : opcodeMap.Pairwise fun r r' => r.value &&& r'.mask ≠ r'.value &&& r.mask := by
  decide

theorem opcodeRow_unique (hr : r ∈ opcodeMap) (hr' : r' ∈ opcodeMap) (h : r.selects w = true) (h' : r'.selects w = true) :
    r' = r := by
  by_contra hne
  have hsymm : Std.Symm fun r r' : OpcodeRow => r.value &&& r'.mask ≠ r'.value &&& r.mask := ⟨fun _ _ => Ne.symm⟩
  refine opcodeMap_pairwise.forall hr' hr hne ?_
  rw [← OpcodeRow.selects_iff.1 h, ← OpcodeRow.selects_iff.1 h', BitVec.and_assoc, BitVec.and_assoc,
    BitVec.and_comm r.mask]

/-! ### A decoded word selects its instruction's row -/

theorem opcodeRow_family9_ignores_n :
    ∀ r ∈ opcodeMap, fieldF r.value = 9#4 → ~~~0x000F#16 &&& r.mask = r.mask := by decide

theorem opcodeRow_family8_ignores_y :
    ∀ r ∈ opcodeMap, fieldF r.value = 8#4 → ~~~0x00F0#16 &&& r.mask = r.mask := by decide

theorem opcodeRow_ignores {i : Instr} (hr : r ∈ opcodeMap) (hs : r.selects (encode i) = true) :
    ~~~ignoredMask i &&& r.mask = r.mask := by
  have hf := fieldF_of_selects hr hs
  cases i with
  | skipNeqReg => exact opcodeRow_family9_ignores_n r hr (by simp [← hf, encode])
  | shiftRight | shiftLeft => exact opcodeRow_family8_ignores_y r hr (by simp [← hf, encode])
  | _ => simp only [ignoredMask, BitVec.not_zero, BitVec.allOnes_and]

theorem opcodeRow_of_decode {i : Instr} (h : decode w = .ok i) :
    ∃ r ∈ opcodeMap, r.mnemonic = i.mnemonic ∧ r.selects w = true := by
  obtain ⟨r, hr, hm, hs⟩ := Laws.EncodesToItsRow.all i
  refine ⟨r, hr, hm, ?_⟩
  have hi := opcodeRow_ignores hr hs
  rw [OpcodeRow.selects_iff] at hs ⊢
  rw [← hs, show encode i = _ from decode_restores h, BitVec.and_assoc, hi]

/-! ### A rejected word selects no row -/

/-- What the list of illegal words looks at: the family, and in some families the word, its low nibble or its lower byte. -/
theorem illegalWord_of_agree {v w : Nat} (hf : w / 4096 = v / 4096) (h0 : v / 4096 = 0 → w = v)
    (hn : v / 4096 ∈ [5, 8] → w % 16 = v % 16) (hk : v / 4096 ∈ [14, 15] → w % 256 = v % 256) (h : IllegalWord w) :
    IllegalWord v := by
  unfold IllegalWord at h ⊢
  rw [hf] at h
  rcases h with ⟨f, h⟩ | ⟨f, h⟩ | ⟨f, h⟩ | ⟨f, h⟩ | ⟨f, h⟩
  · rw [h0 f] at h; exact .inl ⟨f, h⟩
  · rw [hn (by simp [f])] at h; exact .inr (.inl ⟨f, h⟩)
  · rw [hn (by simp [f])] at h; exact .inr (.inr (.inl ⟨f, h⟩))
  · rw [hk (by simp [f])] at h; exact .inr (.inr (.inr (.inl ⟨f, h⟩)))
  · rw [hk (by simp [f])] at h; exact .inr (.inr (.inr (.inr ⟨f, h⟩)))

theorem opcodeRow_fixes_word : ∀ r ∈ opcodeMap, r.value.toNat / 4096 = 0 → r.mask = BitVec.allOnes 16 := by decide

theorem opcodeRow_fixes_nibble :
    ∀ r ∈ opcodeMap, r.value.toNat / 4096 ∈ [5, 8] → r.mask.extractLsb' 0 4 = BitVec.allOnes 4 := by decide

theorem opcodeRow_fixes_byte :
    ∀ r ∈ opcodeMap, r.value.toNat / 4096 ∈ [14, 15] → r.mask.extractLsb' 0 8 = BitVec.allOnes 8 := by decide

theorem opcodeRow_value_legal : ∀ r ∈ opcodeMap, ¬IllegalWord r.value.toNat := by
  unfold IllegalWord
  decide

theorem not_illegalWord_of_selects (hr : r ∈ opcodeMap) (h : r.selects w = true) : ¬IllegalWord w.toNat := by
  refine fun hw => opcodeRow_value_legal r hr ?_
  refine illegalWord_of_agree ?family (fun hv => ?word) (fun hv => ?nibble) (fun hv => ?byte) hw
  case family => rw [← fieldF_toNat, ← fieldF_toNat, fieldF_of_selects hr h]
  case word => rw [← OpcodeRow.selects_iff.1 h, opcodeRow_fixes_word r hr hv, BitVec.and_allOnes]
  case nibble =>
    have : fieldN w = fieldN r.value :=
      congrArg BitVec.toFin (OpcodeRow.extractLsb'_of_selects h (opcodeRow_fixes_nibble r hr hv))
    rw [← fieldN_val, ← fieldN_val, this]
  case byte =>
    have : fieldKK w = fieldKK r.value := OpcodeRow.extractLsb'_of_selects h (opcodeRow_fixes_byte r hr hv)
    rw [← fieldKK_toNat, ← fieldKK_toNat, this]

end

/-- Settles O4: the row of a decoded word is its instruction's and the only one, and a rejected word is illegal, which no row
selects. -/
theorem decodeIsTheOpcodeMap : Obligations.DecodeIsTheOpcodeMap := by
  unfold Obligations.DecodeIsTheOpcodeMap
  refine fun w => ⟨fun i h => ?_, fun e h r hr => ?_⟩
  · obtain ⟨r, hr, hm, hs⟩ := opcodeRow_of_decode h
    exact ⟨r, hr, hm, hs, fun r' hr' hs' => opcodeRow_unique hr hr' hs hs'⟩
  · have hw : IllegalWord w.toNat := (decode_rejects_iff w).1 ⟨e, h⟩
    exact Bool.eq_false_iff.2 fun hs => not_illegalWord_of_selects hr hs hw

end Sys2Proof
end

section
/-! Control flow: what a step returns, the jumps, the calls and the skips, and the invariant of good states, which every
instruction keeps from a `PC` the fetch accepts (spec/40_flow.md). -/

namespace Sys2Proof.Machine

variable {s t u : State}

/-! ## A step (spec/40_flow.md R120) -/

/-- Settles O6: below the fetch limit, the word fetched is the two bytes at `PC`. -/
theorem stepRunsTheDecodedInstruction : Obligations.StepRunsTheDecodedInstruction := by
  unfold Obligations.StepRunsTheDecodedInstruction
  intro s i hpc hi
  rw [← State.fetchedWord_eq] at hi
  exact step_of_decode hpc hi

/-! ## What a step returns (spec/40_flow.md R121, R122) -/

theorem State.firstPressed_eq_none_iff : s.firstPressed = none ↔ ∀ k, s.keyDown k = false := by
  simp [State.firstPressed]

theorem State.blocks_iff {i : Instr} :
    s.blocks i = true ↔ (∃ x, i = .waitKeyPress x) ∧ ∀ k, s.keyDown k = false := by
  rw [← State.firstPressed_eq_none_iff]
  cases i <;> simp [State.blocks]

/-- A blocked instruction changes nothing (spec/44_keypad_timers.md R224). -/
theorem eq_of_blocks {i : Instr} (hb : s.blocks i = true) (h : exec i s = .next t) : t = s := by
  obtain ⟨⟨x, rfl⟩, hkeys⟩ := State.blocks_iff.1 hb
  simpa [exec, execWaitKeyPress, State.firstPressed_eq_none_iff.2 hkeys, State.block, eq_comm] using h

theorem redraws_iff {i : Instr} : redraws i = true ↔ i = .cls ∨ ∃ x y n, i = .draw x y n := by
  cases i <;> simp [redraws]

theorem redraws_of_blocks {i : Instr} (hb : s.blocks i = true) : redraws i = false := by
  obtain ⟨⟨x, rfl⟩, -⟩ := State.blocks_iff.1 hb
  rfl

theorem stepOutput_of_decoded {i : Instr} (hi : s.fetchDecode = .ok i) : stepOutput s = s.execOutput i := by
  simp [stepOutput, hi]

theorem State.execOutput_of_next {i : Instr} (h : exec i s = .next t) :
    s.execOutput i = some (if s.blocks i then ⟨.blocked, false⟩ else ⟨.nextPc t.pc, redraws i⟩) := by
  simp [State.execOutput, h]

theorem State.execOutput_of_fault {i : Instr} {f : Fault} (h : exec i s = .fault f) :
    s.execOutput i = some ⟨.error f, false⟩ := by
  simp [State.execOutput, h]

theorem stepOutput_of_fault {f : Fault} (h : step s = .fault f) : stepOutput s = some ⟨.error f, false⟩ := by
  rcases step_eq_fault_iff.1 h with hf | ⟨i, hi, hexec⟩
  · simp [stepOutput, hf]
  · rw [stepOutput_of_decoded hi, State.execOutput_of_fault hexec]

/-- Settles O9: a completed step either blocked, which only `WaitKeyPress` does, or its output is the new `PC`. -/
theorem stepResults : Obligations.StepResults := by
  unfold Obligations.StepResults
  refine fun s => ⟨fun t hstep => ?_, fun f => stepOutput_of_fault⟩
  obtain ⟨i, hi, hexec⟩ := step_eq_next_iff.1 hstep
  rw [stepOutput_of_decoded hi, State.execOutput_of_next hexec]
  simp only [hi, Except.ok.injEq, ← State.blocks_iff]
  rw [← and_assoc, ← State.blocks_iff]
  by_cases hb : s.blocks i = true
  · exact .inl ⟨hb, eq_of_blocks hb hexec, by rw [if_pos hb]⟩
  · exact .inr ⟨hb, redraws i, by rw [if_neg hb]⟩

/-- The redraw bit of an output is that of the instruction when it completes, blocked or not, and 0 when it does not. -/
theorem State.execOutput_redraw_iff {i : Instr} {out : StepOutput} (h : s.execOutput i = some out) :
    out.redraw = true ↔ redraws i = true ∧ ∃ t, exec i s = .next t := by
  cases hexec : exec i s with
  | next t =>
    rw [State.execOutput_of_next hexec, Option.some.injEq] at h
    subst h
    by_cases hb : s.blocks i = true
    · simp [hb, redraws_of_blocks hb]
    · simp [hb]
  | fault f =>
    rw [State.execOutput_of_fault hexec, Option.some.injEq] at h
    subst h
    simp
  | refused r => simp [State.execOutput, hexec] at h

/-- Settles O10: by the stage that ends the step; an execution sets the bit by the table of the redrawing instructions. -/
theorem redrawOutput : Obligations.RedrawOutput := by
  unfold Obligations.RedrawOutput
  intro s out hout
  cases hi : s.fetchDecode with
  | error f =>
    obtain rfl : out = ⟨.error f, false⟩ := by simpa [stepOutput, hi, eq_comm] using hout
    simp
  | ok i =>
    rw [stepOutput_of_decoded hi] at hout
    rw [State.execOutput_redraw_iff hout, redraws_iff]
    simp [step_eq_next_iff, hi]

/-! ## Jumps (spec/40_flow.md R126, R132) -/

/-- Settles O11. -/
theorem jumpGoesToItsAddress : Obligations.JumpGoesToItsAddress := by
  unfold Obligations.JumpGoesToItsAddress
  exact fun s nnn => ⟨s.setPc (zextAddr nnn), rfl, zextAddr_toNat nnn, KeptBut.setPc _ (by decide)⟩

/-- The sum does not wrap: it is at most 255 + 4095. -/
theorem State.offsetTarget_toNat (s : State) (nnn : Addr12) :
    (s.offsetTarget nnn).toNat = (s.reg 0).toNat + nnn.toNat := by
  rw [State.offsetTarget, BitVec.toNat_add, zextByte_toNat, zextAddr_toNat]
  omega

/-- Settles O12. -/
theorem jumpOffsetAddsRegisterZero : Obligations.JumpOffsetAddsRegisterZero := by
  unfold Obligations.JumpOffsetAddsRegisterZero
  exact fun s nnn => ⟨s.setPc (s.offsetTarget nnn), rfl, s.offsetTarget_toNat nnn, KeptBut.setPc _ (by decide)⟩

/-! ## Call and Ret (spec/40_flow.md R125, R127) -/

theorem exec_call_of_lt (nnn : Addr12) (h : s.sp.val < 16) :
    exec (.call nnn) s = .next ((s.push (s.pc + 2) h).setPc (zextAddr nnn)) := dif_pos h

theorem exec_ret_of_pos (h : 0 < s.sp.val) : exec .ret s = .next (s.pop.setPc (s.top h)) := dif_pos h

theorem State.push_stack_getElem (a : Word) (h : s.sp.val < 16) (k : Fin 16) :
    (s.push a h).stack[k] = if k.val = s.sp.val then a else s.stack[k] := by
  simp [Vector.getElem_set, eq_comm]

/-- The entry on top is the one at the number of entries in use less one. -/
theorem State.top_eq {k : Fin 16} (h : 0 < s.sp.val) (hk : k.val + 1 = s.sp.val) : s.top h = s.stack[k] := by
  simp [State.top, ← hk]

/-- Settles O13: by whether the stack is full. -/
theorem callPushesTheReturnAddress : Obligations.CallPushesTheReturnAddress := by
  unfold Obligations.CallPushesTheReturnAddress
  refine fun s nnn => ⟨fun h => ?_, fun h => exec_eq_fault_iff.2 (.inr (.inl ⟨⟨nnn, rfl⟩, h, rfl⟩))⟩
  exact ⟨_, exec_call_of_lt nnn h, zextAddr_toNat nnn, rfl, State.push_stack_getElem _ h,
    (KeptBut.push _ h (by decide) (by decide)).trans (KeptBut.setPc _ (by decide))⟩

/-- Settles O14: by whether the stack is empty. -/
theorem retPopsTheReturnAddress : Obligations.RetPopsTheReturnAddress := by
  unfold Obligations.RetPopsTheReturnAddress
  refine fun s => ⟨fun h => ?_, fun h => exec_eq_fault_iff.2 (.inl ⟨rfl, h, rfl⟩)⟩
  have hsp : s.sp.val - 1 + 1 = s.sp.val := Nat.sub_add_cancel h
  exact ⟨_, exec_ret_of_pos h, hsp, fun k hk => State.top_eq h (hk ▸ hsp),
    (KeptBut.pop (by decide)).trans (KeptBut.setPc _ (by decide))⟩

/-- Settles O15: the entry `Ret` pops is the one the `Call` pushed. -/
theorem retUndoesCall : Obligations.RetUndoesCall := by
  unfold Obligations.RetUndoesCall
  intro s t u nnn hcall hsp hstack
  have hlt : s.sp.val < 16 := by
    by_contra hfull
    simp [exec, execCall, hfull] at hcall
  obtain rfl : (s.push (s.pc + 2) hlt).setPc (zextAddr nnn) = t := by
    simpa [exec_call_of_lt nnn hlt] using hcall
  have huse : s.sp.val + 1 = u.sp.val := by rw [hsp]; rfl
  have hpos : 0 < u.sp.val := by omega
  refine ⟨_, exec_ret_of_pos hpos, ?_, ?_⟩
  · rw [State.setPc_pc, State.top_eq (k := ⟨s.sp.val, hlt⟩) hpos huse, hstack, State.setPc_stack,
      State.push_stack_getElem, if_pos rfl]
  · exact Fin.ext (Nat.sub_eq_of_eq_add huse.symm)

/-! ## Skips (spec/40_flow.md R128 to R131) -/

/-- A skip completes, changes `PC` alone, and goes four on when its condition holds and two on when it does not. -/
theorem State.skipIf_spec (s : State) {c : Bool} {p q : Prop} (hp : p → c = true) (hq : q → c = false) :
    ∃ t, s.skipIf c = .next t ∧ KeptBut [.pc] s t ∧ (p → t.pc = s.pc + 4) ∧ (q → t.pc = s.pc + 2) := by
  refine ⟨_, (State.skipIf_eq_next ..).2 rfl, KeptBut.setPc _ (by decide), fun h => ?_, fun h => ?_⟩
  · simp [hp h]
  · simp [hq h]

/-- Settles O16. -/
theorem skipsAgainstAConstant : Obligations.SkipsAgainstAConstant := by
  unfold Obligations.SkipsAgainstAConstant
  exact fun s x kk => ⟨s.skipIf_spec beq_iff_eq.2 beq_eq_false_iff_ne.2, s.skipIf_spec bne_iff_ne.2 bne_eq_false_iff_eq.2⟩

/-- Settles O17. -/
theorem skipsBetweenRegisters : Obligations.SkipsBetweenRegisters := by
  unfold Obligations.SkipsBetweenRegisters
  exact fun s x y => ⟨s.skipIf_spec beq_iff_eq.2 beq_eq_false_iff_ne.2, s.skipIf_spec bne_iff_ne.2 bne_eq_false_iff_eq.2⟩

/-! ## The invariant: one rule per update -/

/-- The invariant speaks of memory, `PC` and the stack only. -/
theorem State.Inv.congr (h : s.Inv) (hmem : t.mem = s.mem) (hpc : t.pc = s.pc) (hsp : t.sp = s.sp)
    (hstack : t.stack = s.stack) : t.Inv where
  memory := hmem ▸ h.memory
  pcRange := hpc ▸ h.pcRange
  returns := fun k hk => by rw [hstack]; exact h.returns k (hsp ▸ hk)

theorem State.Inv.setPc (h : s.Inv) {a : Word} (ha : a.toNat ≤ 4350) : (s.setPc a).Inv := { h with pcRange := ha }

theorem State.Inv.setPix (h : s.Inv) (p : Plane) : (s.setPix p).Inv := { h with }

theorem State.Inv.storeBytes (h : s.Inv) {bytes : List Byte} {k : Nat} (hlen : bytes.length = k) (hok : s.RangeOk k)
    (hpos : 0 < k) : (s.storeBytes bytes).Inv :=
  { h with memory := Memory.wf_writeList bytes h.memory (hlen ▸ hok.resolve_left (Nat.ne_of_gt hpos)) }

theorem State.Inv.pop (h : s.Inv) : s.pop.Inv :=
  { h with returns := fun k hk => h.returns k (Nat.lt_of_lt_of_le hk (Nat.sub_le ..)) }

theorem State.Inv.push (h : s.Inv) {a : Word} (ha : a.toNat ≤ 4095) (hlt : s.sp.val < 16) : (s.push a hlt).Inv where
  memory := h.memory
  pcRange := h.pcRange
  returns := fun k hk => by
    rw [State.push_stack_getElem]
    split
    next => exact ha
    next hne => exact h.returns k (Nat.lt_of_le_of_ne (Nat.le_of_lt_succ hk) hne)

theorem State.Inv.top_le (h : s.Inv) (hpos : 0 < s.sp.val) : (s.top hpos).toNat ≤ 4095 :=
  h.returns ⟨s.sp.val - 1, by omega⟩ (Nat.sub_lt hpos Nat.one_pos)

/-! ## The invariant: one rule per answer -/

/-- When the answer is a next state, that state is good. -/
def NextInv (r : Result) : Prop := ∀ t, r = .next t → t.Inv

theorem State.Inv.goto (h : s.Inv) {a : Word} (ha : a.toNat ≤ 4350) : NextInv (s.goto a) := by
  intro t ht
  obtain rfl := (State.goto_eq_next ..).1 ht
  exact h.setPc ha

theorem State.Inv.advance (h : s.Inv) (hpc : s.pc.toNat < 4094) : NextInv s.advance := h.goto (by bv_omega)

/-- The shape of most instructions: change what the invariant does not speak of, then go on. -/
theorem State.Inv.advance_congr (h : s.Inv) (hlt : s.pc.toNat < 4094) (hmem : t.mem = s.mem) (hpc : t.pc = s.pc)
    (hsp : t.sp = s.sp) (hstack : t.stack = s.stack) : NextInv t.advance :=
  (h.congr hmem hpc hsp hstack).advance (hpc ▸ hlt)

theorem State.Inv.skipIf (h : s.Inv) (hpc : s.pc.toNat < 4094) (c : Bool) : NextInv (s.skipIf c) :=
  h.goto (by split <;> bv_omega)

theorem NextInv.raise (f : Fault) : NextInv (raise f) := fun t ht => absurd ht (raise_ne_next f t)

theorem NextInv.guardRange {k : Nat} {r : Result} (h : s.RangeOk k → NextInv r) : NextInv (s.guardRange k r) := by
  intro t ht
  obtain ⟨hok, hr⟩ := State.guardRange_eq_next.1 ht
  exact h hok t hr

/-! ## The invariant: every instruction (spec/40_flow.md R124) -/

theorem nextInv_ret (h : s.Inv) : NextInv (execRet s) := by
  unfold execRet
  split
  next hpos => exact h.pop.goto ((h.top_le hpos).trans (by decide))
  next => exact NextInv.raise _

theorem nextInv_call (h : s.Inv) (hpc : s.pc.toNat < 4094) (nnn : Addr12) : NextInv (execCall nnn s) := by
  unfold execCall
  split
  next hlt => exact (h.push (by bv_omega) hlt).goto (by rw [zextAddr_toNat]; omega)
  next => exact NextInv.raise _

theorem nextInv_waitKeyPress (h : s.Inv) (hpc : s.pc.toNat < 4094) (x : RegNum) : NextInv (execWaitKeyPress x s) := by
  unfold execWaitKeyPress
  split
  · rintro t ⟨⟩
    exact h
  · exact h.advance_congr hpc rfl rfl rfl rfl

/-- From a good state whose `PC` is below the fetch limit, whatever completes leads to a good state. -/
theorem exec_nextInv (i : Instr) (h : s.Inv) (hpc : s.pc.toNat < 4094) : NextInv (exec i s) := by
  cases i with
  | jump nnn => exact h.goto (by rw [zextAddr_toNat]; omega)
  | jumpOffset nnn => exact h.goto (by rw [State.offsetTarget_toNat]; omega)
  | ret => exact nextInv_ret h
  | call nnn => exact nextInv_call h hpc nnn
  | skipEqConst | skipNeqConst | skipEqReg | skipNeqReg | skipKey | skipNotKey => exact h.skipIf hpc _
  | waitKeyPress x => exact nextInv_waitKeyPress h hpc x
  | random => exact h.advance_congr hpc s.takeRand_mem s.takeRand_pc s.takeRand_sp s.takeRand_stack
  | bcd x => exact NextInv.guardRange fun hok => (h.storeBytes (bcdDigits_length (s.reg x)) hok (by decide)).advance hpc
  | store x =>
    exact NextInv.guardRange fun hok => (h.storeBytes (s.regsUpTo_length x) hok (Nat.succ_pos _)).advance hpc
  | draw => exact NextInv.guardRange fun _ => (h.setPix _).advance_congr hpc rfl rfl rfl rfl
  | load x =>
    exact NextInv.guardRange fun _ =>
      h.advance_congr hpc (s.loadRegs_mem x) (s.loadRegs_pc x) (s.loadRegs_sp x) (s.loadRegs_stack x)
  | cls | loadConst | addConst | move | or | and | xor | add | sub | shiftRight | subN | shiftLeft | setIndex | loadDelay
  | setDelay | setSound | addIndex | spriteAddr => exact h.advance_congr hpc rfl rfl rfl rfl

/-- A completed step fetched below the limit, so it keeps the invariant. -/
theorem State.Inv.step (h : s.Inv) (hstep : step s = .next t) : t.Inv := by
  obtain ⟨i, hi, hexec⟩ := step_eq_next_iff.1 hstep
  exact exec_nextInv i h (State.fetchDecode_eq_ok_iff.1 hi).1 t hexec

/-- Settles O54: the fetch limit bounds `PC + 2` and `PC + 4`, the fields bound the jumps, and the range test the writes. -/
theorem everyStepKeepsTheInvariant : Obligations.EveryStepKeepsTheInvariant := by
  unfold Obligations.EveryStepKeepsTheInvariant
  exact fun _ _ h hstep => h.step hstep

end Sys2Proof.Machine
end

section
/-! What `Draw`'s loop does to the plane and to the collision flag: every pixel the sprite covers is XORed once, and the collision is a
pixel that went from 1 to 0 (spec/43_display.md R203, R204). -/

namespace Sys2Proof.Machine

/-! ## One row of a sprite -/

/-- A 1 bit of the sprite row `b` lands on this column. -/
def rowCovers (x0 : Nat) (b : Byte) (col : Fin 64) : Bool :=
  (List.range 8).any fun c => spriteBit b c && decide (col = wrapCol x0 c)

theorem Blit.row_pixel (x0 : Nat) (row : Fin 32) (b : Byte) (d : Blit) (row' : Fin 32) (col : Fin 64) :
    (d.row x0 row b).plane.pixel row' col = (d.plane.pixel row' col != (decide (row' = row) && rowCovers x0 b col)) :=
  (Blit.row_spec x0 row b d).1 row' col

theorem Blit.row_collision_iff (x0 : Nat) (row : Fin 32) (b : Byte) (d : Blit) :
    (d.row x0 row b).collision = true ↔
      d.collision = true ∨ ∃ col, rowCovers x0 b col = true ∧ d.plane.pixel row col = true := by
  rw [(Blit.row_spec x0 row b d).2]
  simp only [rowCovers, Bool.or_eq_true, List.any_eq_true, Bool.and_eq_true, decide_eq_true_eq]
  refine or_congr_right ⟨?_, ?_⟩
  · rintro ⟨c, hc, hbit, hpix⟩
    exact ⟨wrapCol x0 c, ⟨c, hc, hbit, rfl⟩, hpix⟩
  · rintro ⟨_, ⟨c, hc, hbit, rfl⟩, hpix⟩
    exact ⟨c, hc, hbit, hpix⟩

/-! ## All rows -/

/-- A 1 bit of one of the sprite rows, the first at row offset `r`, lands on this pixel. -/
def rowsCover (x0 y0 : Nat) (row : Fin 32) (col : Fin 64) : Nat → List Byte → Bool
  | _, [] => false
  | r, b :: bs => (decide (row = wrapRow y0 r) && rowCovers x0 b col) || rowsCover x0 y0 row col (r + 1) bs

/-- The at most 32 rows of a sprite land on different rows of the plane: none of the rows from `r` on lands where row `k` does. -/
theorem rowsCover_wrapRow_of_lt (x0 y0 : Nat) (col : Fin 64) (k : Nat) : ∀ (bs : List Byte) (r : Nat), k < r →
    r + bs.length ≤ k + 32 → rowsCover x0 y0 (wrapRow y0 k) col r bs = false := by
  intro bs
  induction bs with
  | nil => intros; rfl
  | cons b bs ih =>
    intro r hk hr
    rw [List.length_cons] at hr
    have hne : wrapRow y0 k ≠ wrapRow y0 r := by
      simp only [wrapRow, ne_eq, Fin.ext_iff, Fin.val_ofNat]
      omega
    simp [rowsCover, hne, ih (r + 1) (by omega) (by omega)]

/-- The rows after the first land on other rows of the plane than the first does. -/
theorem rowsCover_first_row (x0 y0 r : Nat) (col : Fin 64) {b : Byte} {bs : List Byte} (hlen : (b :: bs).length ≤ 32) :
    rowsCover x0 y0 (wrapRow y0 r) col (r + 1) bs = false := by
  rw [List.length_cons] at hlen
  exact rowsCover_wrapRow_of_lt x0 y0 col r bs (r + 1) (by omega) (by omega)

/-- The loop is one XOR: no pixel is met twice. -/
theorem Blit.rows_pixel (x0 y0 : Nat) (row : Fin 32) (col : Fin 64) : ∀ (bs : List Byte) (r : Nat) (d : Blit),
    bs.length ≤ 32 →
    (Blit.rows x0 y0 r bs d).plane.pixel row col = (d.plane.pixel row col != rowsCover x0 y0 row col r bs) := by
  intro bs
  induction bs with
  | nil => simp [Blit.rows, rowsCover]
  | cons b bs ih =>
    intro r d hlen
    rw [Blit.rows, ih _ _ (Nat.le_of_succ_le hlen), Blit.row_pixel, rowsCover]
    by_cases hrow : row = wrapRow y0 r
    · simp [hrow, rowsCover_first_row x0 y0 r col hlen]
    · simp [hrow]

/-- A collision is a covered pixel that was 1 before the whole loop: no earlier row touched it. -/
theorem Blit.rows_collision_iff (x0 y0 : Nat) : ∀ (bs : List Byte) (r : Nat) (d : Blit), bs.length ≤ 32 →
    ((Blit.rows x0 y0 r bs d).collision = true ↔
      d.collision = true ∨ ∃ row col, rowsCover x0 y0 row col r bs = true ∧ d.plane.pixel row col = true) := by
  intro bs
  induction bs with
  | nil => simp [Blit.rows, rowsCover]
  | cons b bs ih =>
    intro r d hlen
    have untouched (row : Fin 32) (col : Fin 64) (h : rowsCover x0 y0 row col (r + 1) bs = true) :
        (d.row x0 (wrapRow y0 r) b).plane.pixel row col = d.plane.pixel row col := by
      have hrow : row ≠ wrapRow y0 r := by
        rintro rfl
        simp [rowsCover_first_row x0 y0 r col hlen] at h
      simp [Blit.row_pixel, hrow]
    rw [Blit.rows, ih _ _ (Nat.le_of_succ_le hlen), Blit.row_collision_iff, or_assoc]
    refine or_congr_right ⟨?_, ?_⟩
    · rintro (⟨col, hcov, hp⟩ | ⟨row, col, hcov, hp⟩)
      · exact ⟨wrapRow y0 r, col, by simp [rowsCover, hcov], hp⟩
      · exact ⟨row, col, by simp [rowsCover, hcov], untouched row col hcov ▸ hp⟩
    · rintro ⟨row, col, hcov, hp⟩
      simp only [rowsCover, Bool.or_eq_true, Bool.and_eq_true, decide_eq_true_eq] at hcov
      obtain ⟨rfl, hcov⟩ | hcov := hcov
      · exact .inl ⟨col, hcov, hp⟩
      · exact .inr ⟨row, col, hcov, (untouched row col hcov).trans hp⟩

/-- The collision of a sprite of at most 32 rows is a pixel that went from 1 to 0. -/
theorem Plane.draw_collision_iff (p : Plane) {sp : Sprite} (h : sp.rows.length ≤ 32) :
    (p.draw sp).collision = true ↔ ∃ row col, p.pixel row col = true ∧ (p.draw sp).plane.pixel row col = false := by
  rw [Plane.draw, Blit.rows_collision_iff _ _ _ _ _ h]
  simp only [Blit.rows_pixel _ _ _ _ _ _ _ h, Bool.false_eq_true, false_or]
  refine exists_congr fun row => exists_congr fun col => ?_
  cases p.pixel row col <;> simp

theorem State.sprite_rows_length (s : State) (x y : RegNum) (n : Fin 16) : (s.sprite x y n).rows.length = n.val := by
  simp [State.sprite, Memory.readList]

end Sys2Proof.Machine
end

section
/-! The arithmetic and logic instructions (spec/41_alu.md): the value and the flag of each operation, how an instruction that writes
them completes, and what every instruction leaves in `VF`. -/

namespace Sys2Proof.Machine

variable {s t : State}

/-! ## Values and flags (spec/41_alu.md R158 to R162) -/

theorem addWrapped_toNat (a kk : Byte) : (addWrapped a kk).toNat = (a.toNat + kk.toNat) % 256 := BitVec.toNat_ofNat ..

theorem addFlagged_value_toNat (a b : Byte) : (addFlagged a b).value.toNat = (a.toNat + b.toNat) % 256 :=
  BitVec.toNat_ofNat ..

theorem addFlagged_flag_iff (a b : Byte) : (addFlagged a b).flag = true ↔ 255 < a.toNat + b.toNat := decide_eq_true_iff

theorem subFlagged_value_toNat (a b : Byte) : (subFlagged a b).value.toNat = (a.toNat + 256 - b.toNat) % 256 := by
  unfold subFlagged
  split
  next h =>
    rw [BitVec.toNat_ofNat]
    omega
  next => exact BitVec.toNat_ofNat ..

theorem subFlagged_flag_iff (a b : Byte) : (subFlagged a b).flag = true ↔ b.toNat ≤ a.toNat := by
  unfold subFlagged
  split <;> simp [*]

theorem shrFlagged_value_toNat (a : Byte) : (shrFlagged a).value.toNat = a.toNat / 2 := by
  simp only [shrFlagged, BitVec.toNat_ofNat]
  omega

theorem shrFlagged_flag_iff (a : Byte) : (shrFlagged a).flag = true ↔ a.toNat % 2 = 1 := by
  simp only [shrFlagged, byte_bit0, decide_eq_true_eq]

theorem shlFlagged_value_toNat (a : Byte) : (shlFlagged a).value.toNat = 2 * a.toNat % 256 := BitVec.toNat_ofNat ..

theorem shlFlagged_flag_iff (a : Byte) : (shlFlagged a).flag = true ↔ 128 ≤ a.toNat := by
  simp only [shlFlagged, byte_bit7, decide_eq_true_eq]

/-! ## What every instruction leaves in `VF` (spec/41_alu.md R151) -/

theorem isFlag_of_setFlagged_advance {x : RegNum} {f : Flagged} {p : Prop} (h : (s.setFlagged x f).advance = .next t)
    (hp : f.flag = true ↔ p) : IsFlag (t.reg vf) p := by
  obtain rfl := (State.advance_eq_next ..).1 h
  simpa [State.reg_setFlagged] using isFlag_flagByte f.flag hp

/-- The flag of `Draw`, in terms of the planes before and after. -/
theorem isFlag_of_exec_draw {x y : RegNum} {n : Fin 16} (h : exec (.draw x y n) s = .next t) :
    IsFlag (t.reg vf) (∃ row col, s.pix.pixel row col = true ∧ t.pix.pixel row col = false) := by
  have hrows : (s.sprite x y n).rows.length ≤ 32 := by
    rw [State.sprite_rows_length]
    omega
  obtain rfl := (State.advance_eq_next ..).1 (State.guardRange_eq_next.1 h).2
  simpa [State.reg_setFlag] using isFlag_flagByte _ (s.pix.draw_collision_iff hrows)

theorem vf_le_iff {x : RegNum} : vf ≤ x ↔ x = vf := Fin.last_le_iff

/-- Settles O25: a flag is the last register written; where there is none, `VF` is kept unless the table of registers written
names it. -/
theorem flagRegisterAfterEveryInstruction : Obligations.FlagRegisterAfterEveryInstruction := by
  unfold Obligations.FlagRegisterAfterEveryInstruction
  intro i s t h
  cases i with
  | add x y => exact isFlag_of_setFlagged_advance h (addFlagged_flag_iff ..)
  | sub x y | subN x y => exact isFlag_of_setFlagged_advance h (subFlagged_flag_iff ..)
  | shiftRight x => exact isFlag_of_setFlagged_advance h (shrFlagged_flag_iff _)
  | shiftLeft x => exact isFlag_of_setFlagged_advance h (shlFlagged_flag_iff _)
  | draw x y n => exact isFlag_of_exec_draw h
  | loadConst x | addConst x | move x | or x | and x | xor x | random x | loadDelay x =>
    exact fun hx => exec_regsKeptBut h vf (by simpa [State.regWrites] using hx.symm)
  | waitKeyPress x =>
    refine fun hx => exec_regsKeptBut h vf ?_
    simp only [State.regWrites]
    split
    · simpa using hx.symm
    · simp
  | load x => exact fun hx => exec_regsKeptBut h vf (by simpa [State.regWrites, vf_le_iff] using hx)
  | cls | ret | jump | call | skipEqConst | skipNeqConst | skipEqReg | skipNeqReg | setIndex | jumpOffset | skipKey
  | skipNotKey | setDelay | setSound | addIndex | spriteAddr | bcd | store =>
    exact exec_regsKeptBut h vf (by simp [State.regWrites])

/-! ## Completing with a result -/

/-- Write a result and go on: the register holds it, and every other register and everything else is kept. -/
theorem State.setReg_advance_spec (s : State) (x : RegNum) {b : Byte} {p : Byte → Prop} (hb : p b) :
    ∃ t, (s.setReg x b).advance = .next t ∧ p (t.reg x) ∧ t.pc = s.pc + 2 ∧ RegsKeptBut [x] s t ∧
      KeptBut [.pc, .regs] s t :=
  ⟨_, (State.advance_eq_next ..).2 rfl, by simpa using hb, rfl, RegsKeptBut.setReg _ _ _ _,
    (KeptBut.setReg _ _ (by decide)).trans (KeptBut.setPc _ (by decide))⟩

/-- Write a result and its flag and go on: the flag stands in `VF`, the result in `V[x]` unless that is `VF`. -/
theorem State.setFlagged_advance_spec (s : State) (x : RegNum) {f : Flagged} {p : Byte → Prop} {q : Prop} (hp : p f.value)
    (hq : f.flag = true ↔ q) :
    ∃ t, (s.setFlagged x f).advance = .next t ∧ (x ≠ vf → p (t.reg x)) ∧ IsFlag (t.reg vf) q ∧ t.pc = s.pc + 2 ∧
      RegsKeptBut [x, vf] s t ∧ KeptBut [.pc, .regs] s t := by
  have hnext := (State.advance_eq_next (s.setFlagged x f) _).2 rfl
  exact ⟨_, hnext, fun hx => by simpa [State.reg_setFlagged, hx] using hp, isFlag_of_setFlagged_advance hnext hq, rfl,
    RegsKeptBut.setFlagged _ _ _ _, (KeptBut.setFlagged _ _ (by decide)).trans (KeptBut.setPc _ (by decide))⟩

/-- Settles O18. -/
theorem constantsAndCopy : Obligations.ConstantsAndCopy := by
  unfold Obligations.ConstantsAndCopy
  exact fun s x y kk =>
    ⟨s.setReg_advance_spec x (p := (· = kk)) rfl,
      s.setReg_advance_spec x (p := (·.toNat = ((s.reg x).toNat + kk.toNat) % 256)) (addWrapped_toNat ..),
      s.setReg_advance_spec x (p := (· = s.reg y)) rfl⟩

/-- Settles O19. -/
theorem bitwiseLogic : Obligations.BitwiseLogic := by
  unfold Obligations.BitwiseLogic
  exact fun s x y =>
    ⟨s.setReg_advance_spec x (p := fun v => ∀ k, v.getLsbD k = ((s.reg x).getLsbD k || (s.reg y).getLsbD k))
        fun _ => BitVec.getLsbD_or,
      s.setReg_advance_spec x (p := fun v => ∀ k, v.getLsbD k = ((s.reg x).getLsbD k && (s.reg y).getLsbD k))
        fun _ => BitVec.getLsbD_and,
      s.setReg_advance_spec x (p := fun v => ∀ k, v.getLsbD k = ((s.reg x).getLsbD k != (s.reg y).getLsbD k))
        fun _ => BitVec.getLsbD_xor⟩

/-- Settles O20. -/
theorem addWithCarry : Obligations.AddWithCarry := by
  unfold Obligations.AddWithCarry
  exact fun s x y =>
    s.setFlagged_advance_spec x (p := (·.toNat = ((s.reg x).toNat + (s.reg y).toNat) % 256)) (addFlagged_value_toNat ..)
      (addFlagged_flag_iff ..)

/-- Settles O21. -/
theorem subtractWithNotBorrow : Obligations.SubtractWithNotBorrow := by
  unfold Obligations.SubtractWithNotBorrow
  exact fun s x y =>
    ⟨s.setFlagged_advance_spec x (p := (·.toNat = ((s.reg x).toNat + 256 - (s.reg y).toNat) % 256))
        (subFlagged_value_toNat ..) (subFlagged_flag_iff ..),
      s.setFlagged_advance_spec x (p := (·.toNat = ((s.reg y).toNat + 256 - (s.reg x).toNat) % 256))
        (subFlagged_value_toNat ..) (subFlagged_flag_iff ..)⟩

/-- Settles O22: the flag is by definition the bit shifted out. -/
theorem shiftsByOne : Obligations.ShiftsByOne := by
  unfold Obligations.ShiftsByOne
  exact fun s x =>
    ⟨s.setFlagged_advance_spec x (p := (·.toNat = (s.reg x).toNat / 2)) (shrFlagged_value_toNat _) Iff.rfl,
      s.setFlagged_advance_spec x (p := (·.toNat = 2 * (s.reg x).toNat % 256)) (shlFlagged_value_toNat _) Iff.rfl⟩

/-! ## Random (spec/41_alu.md R163) -/

theorem KeptBut.takeRand_cons {l : List Part} {b : Byte} {bs : List Byte} (h : s.rand = b :: bs) (hl : .rand ∈ l) :
    KeptBut l s s.takeRand := by
  simp [keptBut_iff, (s.takeRand_cons h).2, hl, State.reg]

theorem KeptBut.takeRand_nil {l : List Part} (h : s.rand = []) (hl : .draws ∈ l) : KeptBut l s s.takeRand := by
  simp [keptBut_iff, (s.takeRand_nil h).2, hl, State.reg]

/-- `Random` completes; what it keeps beside `PC` and the registers is what drawing the byte keeps. -/
theorem exec_random_spec (x : RegNum) (kk : Byte) {l : List Part} (hdraw : KeptBut l s s.takeRand) (hpc : .pc ∈ l)
    (hregs : .regs ∈ l) :
    ∃ t, exec (.random x kk) s = .next t ∧ t.reg x = s.randByte &&& kk ∧ t.rand = s.takeRand.rand ∧
      t.draws = s.takeRand.draws ∧ t.pc = s.pc + 2 ∧ RegsKeptBut [x] s t ∧ KeptBut l s t := by
  have hnext : exec (.random x kk) s = .next _ := (State.advance_eq_next ..).2 rfl
  refine ⟨_, hnext, by simp, rfl, rfl, by simp, exec_regsKeptBut hnext, ?_⟩
  exact (hdraw.trans (KeptBut.setReg _ _ hregs)).trans (KeptBut.setPc _ hpc)

/-- Settles O24: by whether the host has presented a byte. -/
theorem randomMasksTheRandomByte : Obligations.RandomMasksTheRandomByte := by
  unfold Obligations.RandomMasksTheRandomByte
  refine fun s x kk => ⟨fun b bs h => ?_, fun h => ?_⟩
  · obtain ⟨hbyte, htake⟩ := s.takeRand_cons h
    obtain ⟨t, hnext, hreg, hrand, -, hrest⟩ :=
      exec_random_spec x kk (KeptBut.takeRand_cons h (l := [.pc, .regs, .rand]) (by decide)) (by decide) (by decide)
    exact ⟨t, hnext, hbyte ▸ hreg, by rw [hrand, htake], hrest⟩
  · obtain ⟨hbyte, htake⟩ := s.takeRand_nil h
    obtain ⟨t, hnext, hreg, -, hdraws, hrest⟩ :=
      exec_random_spec x kk (KeptBut.takeRand_nil h (l := [.pc, .regs, .draws]) (by decide)) (by decide) (by decide)
    exact ⟨t, hnext, hbyte ▸ hreg, by rw [hdraws, htake], hrest⟩

end Sys2Proof.Machine
end

section
/-! The index register and the instructions that access memory through it (spec/42_index_memory.md): what `I` becomes, the bytes that
`Bcd` and `Store` write, the registers that `Load` reads, and `Load` after `Store`. -/

namespace Sys2Proof.Machine

/-! ## Writing `I` (spec/42_index_memory.md R181 to R183) -/

/-- Write `I` and go on: everything else is kept. -/
theorem State.setIndex_advance_spec (s : State) {a : Word} {n : Nat} (ha : a.toNat = n) :
    ∃ t, (s.setIndex a).advance = .next t ∧ t.i.toNat = n ∧ t.pc = s.pc + 2 ∧ KeptBut [.pc, .i] s t :=
  ⟨_, (State.advance_eq_next ..).2 rfl, ha, rfl, (KeptBut.setIndex _ (by decide)).trans (KeptBut.setPc _ (by decide))⟩

/-- Nothing is lost in 16 bits: 5 times a byte is at most 1275. -/
theorem State.glyphAddr_toNat (s : State) (x : RegNum) : (s.glyphAddr x).toNat = (s.reg x).toNat * 5 := by
  simp only [State.glyphAddr, BitVec.toNat_ofNat, Config.glyphBytes]
  omega

theorem State.indexSum_toNat (s : State) (x : RegNum) : (s.indexSum x).toNat = (s.i.toNat + (s.reg x).toNat) % 65536 := by
  simp [State.indexSum]

/-- Settles O26. -/
theorem setIndexAndSpriteAddr : Obligations.SetIndexAndSpriteAddr := by
  unfold Obligations.SetIndexAndSpriteAddr
  exact fun s nnn x => ⟨s.setIndex_advance_spec (zextAddr_toNat nnn), s.setIndex_advance_spec (s.glyphAddr_toNat x)⟩

/-- Settles O27. -/
theorem addIndexWraps : Obligations.AddIndexWraps := by
  unfold Obligations.AddIndexWraps
  exact fun s x => s.setIndex_advance_spec (s.indexSum_toNat x)

/-! ## Writing memory from `I` on (spec/42_index_memory.md R184, R185) -/

/-- Test the range, write the bytes and go on: every byte stands at its place, and every other byte and everything else is kept. -/
theorem State.guardRange_storeBytes_spec (s : State) {bytes : List Byte} {k : Nat} (hlen : bytes.length = k) (hok : s.RangeOk k) :
    ∃ t, s.guardRange k (s.storeBytes bytes).advance = .next t ∧
      (∀ j (hj : j < bytes.length), t.mem.read (s.i.toNat + j) = bytes[j]) ∧
      BytesKeptOutside s.i.toNat k s t ∧ t.pc = s.pc + 2 ∧ KeptBut [.pc, .mem] s t :=
  ⟨_, State.guardRange_eq_next.2 ⟨hok, (State.advance_eq_next ..).2 rfl⟩, fun _ hj => Memory.read_writeList_inside hj,
    fun _ ha => Memory.read_writeList_outside (hlen ▸ ha), rfl,
    (KeptBut.storeBytes _ (by decide)).trans (KeptBut.setPc _ (by decide))⟩

/-- A number no greater than a byte fits a byte. -/
theorem byteOfNat_toNat_of_le {v : Byte} {n : Nat} (h : n ≤ v.toNat) : (BitVec.ofNat 8 n).toNat = n :=
  (BitVec.toNat_ofNat ..).trans (Nat.mod_eq_of_lt (Nat.lt_of_le_of_lt h v.isLt))

/-- Settles O28: the three bytes written from `I` on are the digits, and no digit exceeds the value. -/
theorem bcdWritesThreeDigits : Obligations.BcdWritesThreeDigits := by
  unfold Obligations.BcdWritesThreeDigits
  intro s x h
  obtain ⟨t, hnext, hread, hkept⟩ := s.guardRange_storeBytes_spec (bcdDigits_length (s.reg x)) (.inr (by omega))
  have digit (j : Fin 3) {n : Nat} (hdigit : (bcdDigits (s.reg x))[j] = BitVec.ofNat 8 n) (hle : n ≤ (s.reg x).toNat) :
      (t.mem.read (s.i.toNat + j)).toNat = n :=
    (congrArg BitVec.toNat ((hread j j.isLt).trans hdigit)).trans (byteOfNat_toNat_of_le hle)
  exact ⟨t, hnext, digit 0 rfl (by omega), digit 1 rfl (by omega), digit 2 rfl (by omega), hkept⟩

/-- Settles O29: the registers up to `x` are the bytes written from `I` on. -/
theorem storeWritesRegistersUpToX : Obligations.StoreWritesRegistersUpToX := by
  unfold Obligations.StoreWritesRegistersUpToX
  intro s x h
  obtain ⟨t, hnext, -, hkept⟩ := s.guardRange_storeBytes_spec (s.regsUpTo_length x) (.inr (by omega))
  exact ⟨t, hnext, fun r hr => read_of_exec_store hnext hr, hkept⟩

/-! ## Reading memory from `I` on (spec/42_index_memory.md R186, R187) -/

/-- Settles O30. -/
theorem loadReadsRegistersUpToX : Obligations.LoadReadsRegistersUpToX := by
  unfold Obligations.LoadReadsRegistersUpToX
  intro s x h
  have hok : s.RangeOk (x.val + 1) := .inr (by omega)
  refine ⟨(s.loadRegs x).setPc (s.pc + 2), ?completes, fun r hr => ?upToX, fun r hr => ?aboveX, rfl, ?kept⟩
  case completes => exact State.guardRange_of_ok hok _
  case upToX => rw [State.reg_setPc, State.reg_loadRegs, if_pos hr]
  case aboveX => rw [State.reg_setPc, State.reg_loadRegs, if_neg (Fin.not_le.2 hr)]
  case kept => exact (KeptBut.loadRegs x (by decide)).trans (KeptBut.setPc _ (by decide))

/-- Settles O32: the `Store` completed, so its range lies in memory; the `Load` has the same range and reads what was stored. -/
theorem loadUndoesStore : Obligations.LoadUndoesStore := by
  unfold Obligations.LoadUndoesStore
  intro s t u x hstore hi hmem
  obtain ⟨hok, -⟩ := exec_store_eq_next.1 hstore
  have hrange : u.i.toNat + x.val ≤ 4095 := by
    rw [hi]
    rcases hok with h | h <;> omega
  obtain ⟨w, hload, hreg, -⟩ := loadReadsRegistersUpToX u x hrange
  refine ⟨w, hload, fun r hr => ?_⟩
  calc w.reg r = u.mem.read (s.i.toNat + r.val) := by rw [hreg r hr, hi]
    _ = t.mem.read (s.i.toNat + r.val) := hmem r hr
    _ = s.reg r := read_of_exec_store hstore hr

end Sys2Proof.Machine
end

section
/-! The pixel plane (spec/43_display.md): `Cls`, the pixels a sprite covers, `Draw` as one exclusive OR of the whole sprite, and `Draw`
after `Draw`. -/

namespace Sys2Proof.Machine

variable {s t u : State}

/-- Settles O35. -/
theorem clsClearsThePlane : Obligations.ClsClearsThePlane := by
  unfold Obligations.ClsClearsThePlane
  intro s
  have hnext : exec .cls s = .next _ := (State.advance_eq_next ..).2 rfl
  exact ⟨_, hnext, Plane.pixel_clear, rfl, exec_nextKeptBut _ s _ hnext, State.execOutput_of_next hnext⟩

/-! ## The pixels a sprite covers (spec/43_display.md R203, R204) -/

theorem rowCovers_iff (x0 : Nat) (b : Byte) (col : Fin 64) :
    rowCovers x0 b col = true ↔ ∃ c < 8, b.getLsbD (7 - c) = true ∧ col.val = (x0 + c) % 64 := by
  simp [rowCovers, spriteBit, wrapCol, Fin.ext_iff]

theorem rowsCover_iff (x0 y0 : Nat) (row : Fin 32) (col : Fin 64) : ∀ (bs : List Byte) (r : Nat),
    rowsCover x0 y0 row col r bs = true ↔
      ∃ k, ∃ h : k < bs.length, row = wrapRow y0 (r + k) ∧ rowCovers x0 bs[k] col = true := by
  intro bs
  induction bs with
  | nil => simp [rowsCover]
  | cons b bs ih =>
    intro r
    simp only [rowsCover, Bool.or_eq_true, Bool.and_eq_true, decide_eq_true_eq, ih]
    constructor
    · rintro (hfirst | ⟨k, hk, hrow, hcov⟩)
      · exact ⟨0, Nat.succ_pos _, hfirst⟩
      · exact ⟨k + 1, Nat.succ_lt_succ hk, by rwa [Nat.add_right_comm] at hrow, hcov⟩
    · rintro ⟨_ | k, hk, hrow, hcov⟩
      · exact .inl ⟨hrow, hcov⟩
      · exact .inr ⟨k, Nat.lt_of_succ_lt_succ hk, by rwa [Nat.add_right_comm], hcov⟩

/-- A 1 bit of the sprite lands on this pixel. -/
def Sprite.covers (sp : Sprite) (row : Fin 32) (col : Fin 64) : Bool := rowsCover sp.x0 sp.y0 row col 0 sp.rows

theorem State.sprite_covers_iff (s : State) (x y : RegNum) (n : Fin 16) (row : Fin 32) (col : Fin 64) :
    (s.sprite x y n).covers row col = true ↔ SpriteCovers s x y n row col := by
  simp only [Sprite.covers, rowsCover_iff, rowCovers_iff, State.sprite_rows_length, SpriteCovers]
  constructor
  · rintro ⟨r, hr, rfl, c, hc, hbit, hcol⟩
    exact ⟨r, c, hr, hc, by simpa [State.sprite] using hbit, by simp [State.sprite, wrapRow], hcol⟩
  · rintro ⟨r, c, hr, hc, hbit, hrow, hcol⟩
    exact ⟨r, hr, by simpa [State.sprite, wrapRow, Fin.ext_iff] using hrow, c, hc, by simpa [State.sprite] using hbit, hcol⟩

/-! ## `Draw` (spec/43_display.md R203) -/

theorem exec_draw_eq_next {x y : RegNum} {n : Fin 16} :
    exec (.draw x y n) s = .next t ↔ s.RangeOk n.val ∧
      t = ((s.setPix (s.pix.draw (s.sprite x y n)).plane).setFlag (s.pix.draw (s.sprite x y n)).collision).setPc (s.pc + 2) :=
  State.guardRange_eq_next.trans (and_congr_right' (State.advance_eq_next ..))

/-- Every pixel is XORed with whether the sprite covers it. -/
theorem pixel_of_exec_draw {x y : RegNum} {n : Fin 16} (h : exec (.draw x y n) s = .next t) (row : Fin 32) (col : Fin 64) :
    t.pix.pixel row col = (s.pix.pixel row col != (s.sprite x y n).covers row col) := by
  obtain ⟨-, rfl⟩ := exec_draw_eq_next.1 h
  refine Blit.rows_pixel _ _ row col _ _ _ ?_
  rw [State.sprite_rows_length]
  omega

/-- A pixel that went from 1 to 0 is a covered pixel that was 1. -/
theorem collides_iff_of_exec_draw {x y : RegNum} {n : Fin 16} (h : exec (.draw x y n) s = .next t) :
    (∃ row col, s.pix.pixel row col = true ∧ t.pix.pixel row col = false) ↔
      ∃ row col, SpriteCovers s x y n row col ∧ s.pix.pixel row col = true := by
  refine exists_congr fun row => exists_congr fun col => ?_
  rw [pixel_of_exec_draw h, ← State.sprite_covers_iff]
  cases s.pix.pixel row col <;> simp

/-- Settles O36: every clause about pixels, the flag's too, reads off the exclusive OR of each pixel with its cover. -/
theorem drawFlipsTheCoveredPixels : Obligations.DrawFlipsTheCoveredPixels := by
  unfold Obligations.DrawFlipsTheCoveredPixels
  intro s x y n hok
  have hnext : exec (.draw x y n) s = .next _ := exec_draw_eq_next.2 ⟨hok, rfl⟩
  refine ⟨_, hnext, fun row col hcov => ?flipped, fun row col hcov => ?kept, ?flag, rfl, exec_regsKeptBut hnext,
    exec_nextKeptBut _ s _ hnext, State.execOutput_of_next hnext⟩
  case flipped => rw [pixel_of_exec_draw hnext, (State.sprite_covers_iff ..).2 hcov, Bool.bne_true]
  case kept =>
    rw [← State.sprite_covers_iff, Bool.not_eq_true] at hcov
    rw [pixel_of_exec_draw hnext, hcov, Bool.bne_false]
  case flag =>
    rw [← collides_iff_of_exec_draw hnext]
    exact isFlag_of_exec_draw hnext

/-! ## `Draw` after `Draw` (spec/43_display.md R207) -/

/-- The sprite is a matter of `I`, the two registers and memory alone. -/
theorem State.sprite_congr {x y : RegNum} (hi : u.i = s.i) (hx : u.reg x = s.reg x) (hy : u.reg y = s.reg y)
    (hmem : ∀ a, u.mem.read a = s.mem.read a) (n : Fin 16) : u.sprite x y n = s.sprite x y n := by
  simp [State.sprite, Memory.readList, hi, hx, hy, hmem]

/-- Settles O37: both draws XOR each pixel with the same cover. -/
theorem drawTwiceRestoresThePlane : Obligations.DrawTwiceRestoresThePlane := by
  unfold Obligations.DrawTwiceRestoresThePlane
  intro s t u x y n hdraw hpix hi hx hy hmem
  obtain ⟨hok, -⟩ := exec_draw_eq_next.1 hdraw
  obtain ⟨w, hagain⟩ : ∃ w, exec (.draw x y n) u = .next w := ⟨_, exec_draw_eq_next.2 ⟨by rwa [State.RangeOk, hi], rfl⟩⟩
  refine ⟨w, hagain, Plane.ext_pixel fun row col => ?_⟩
  have hsprite : u.sprite x y n = s.sprite x y n := State.sprite_congr hi hx hy hmem n
  calc w.pix.pixel row col
      = (t.pix.pixel row col != (s.sprite x y n).covers row col) := by rw [pixel_of_exec_draw hagain, hpix, hsprite]
    _ = ((s.pix.pixel row col != (s.sprite x y n).covers row col) != (s.sprite x y n).covers row col) := by
      rw [pixel_of_exec_draw hdraw]
    _ = s.pix.pixel row col := by simp

end Sys2Proof.Machine
end

section
/-! The keypad and the timers (spec/44_keypad_timers.md): the key a skip tests, the lowest key that is down and the wait for it, the
instructions that read and set the timers, and the ticks, which alone count them down. -/

namespace Sys2Proof.Machine

variable {s t : State}

/-! ## The keypad (spec/44_keypad_timers.md R220 to R224) -/

theorem State.firstPressed_eq_some_iff {k : KeyNum} :
    s.firstPressed = some k ↔ s.keyDown k = true ∧ ∀ j < k, s.keyDown j = false := by
  rw [State.firstPressed, ← Fin.find?_eq_find?_finRange, Fin.find?_eq_some_iff]

/-- Settles O41: `first_pressed` is the first key that is down in the list of keys, which rises. -/
theorem firstPressedIsTheLowestKeyDown : Obligations.FirstPressedIsTheLowestKeyDown := by
  unfold Obligations.FirstPressedIsTheLowestKeyDown
  exact fun s => ⟨fun k => State.firstPressed_eq_some_iff, State.firstPressed_eq_none_iff⟩

theorem exec_waitKeyPress_of_none (x : RegNum) (h : s.firstPressed = none) : exec (.waitKeyPress x) s = .next s := by
  simp [exec, execWaitKeyPress, h, State.block]

theorem exec_waitKeyPress_of_some (x : RegNum) {k : KeyNum} (h : s.firstPressed = some k) :
    exec (.waitKeyPress x) s = (s.setReg x (keyByte k)).advance := by
  simp [exec, execWaitKeyPress, h]

theorem keyByte_toNat (k : KeyNum) : (keyByte k).toNat = k.val := by
  rw [keyByte, BitVec.toNat_ofNat]
  omega

/-- Settles O40: by what `first_pressed` answers. -/
theorem waitKeyPressStoresTheLowestKey : Obligations.WaitKeyPressStoresTheLowestKey := by
  unfold Obligations.WaitKeyPressStoresTheLowestKey
  refine fun s x => ⟨fun k hk hlow => ?_, fun h => exec_waitKeyPress_of_none x (State.firstPressed_eq_none_iff.2 h)⟩
  rw [exec_waitKeyPress_of_some x (State.firstPressed_eq_some_iff.2 ⟨hk, hlow⟩)]
  exact s.setReg_advance_spec x (p := (·.toNat = k.val)) (keyByte_toNat k)

/-- The low four bits of a register are its value modulo 16. -/
theorem State.keyNum_val (s : State) (x : RegNum) : (s.keyNum x).val = (s.reg x).toNat % 16 := by
  simp [State.keyNum]

/-- Settles O39: the key tested is the one the statement names, and the two skips test it and its opposite. -/
theorem keySkips : Obligations.KeySkips := by
  unfold Obligations.KeySkips
  intro s x k hk
  obtain rfl : s.keyNum x = k := Fin.ext ((s.keyNum_val x).trans hk.symm)
  exact ⟨s.skipIf_spec id id, s.skipIf_spec (congrArg not) (congrArg not)⟩

/-! ## The timer instructions (spec/44_keypad_timers.md R225 to R227) -/

/-- Settles O42. -/
theorem timerInstructions : Obligations.TimerInstructions := by
  unfold Obligations.TimerInstructions
  exact fun s x => ⟨s.setReg_advance_spec x (p := (· = s.dt)) rfl,
    ⟨_, rfl, rfl, rfl, (KeptBut.setDt _ (by decide)).trans (KeptBut.setPc _ (by decide))⟩,
    ⟨_, rfl, rfl, rfl, (KeptBut.setSt _ (by decide)).trans (KeptBut.setPc _ (by decide))⟩⟩

theorem dt_of_exec_setDelay {x : RegNum} (h : exec (.setDelay x) s = .next t) : t.dt = s.reg x := by
  obtain rfl := (State.advance_eq_next ..).1 h
  rfl

theorem st_of_exec_setSound {x : RegNum} (h : exec (.setSound x) s = .next t) : t.st = s.reg x := by
  obtain rfl := (State.advance_eq_next ..).1 h
  rfl

/-! ## Ticks (spec/44_keypad_timers.md R228) -/

/-- Counting a timer down by one, but not below 0, is truncated subtraction. -/
theorem countDown_toNat (b : Byte) : (if b = 0 then 0 else b - 1 : Byte).toNat = b.toNat - 1 := by
  split
  next h => simp [h]
  next h => bv_omega

theorem State.tickTimers_dt_toNat (s : State) : s.tickTimers.dt.toNat = s.dt.toNat - 1 := countDown_toNat s.dt

theorem State.tickTimers_st_toNat (s : State) : s.tickTimers.st.toNat = s.st.toNat - 1 := countDown_toNat s.st

theorem State.tickTimes_dt_toNat (s : State) (n : Nat) : (s.tickTimes n).dt.toNat = s.dt.toNat - n := by
  induction n generalizing s with
  | zero => rfl
  | succ n ih =>
    calc (s.tickTimers.tickTimes n).dt.toNat = s.dt.toNat - 1 - n := by rw [ih, s.tickTimers_dt_toNat]
      _ = s.dt.toNat - (n + 1) := by omega

/-- Settles O44: `LoadDelay` reads the value that `SetDelay` put into `DT` and that each tick took one from. -/
theorem loadDelayAfterTicks : Obligations.LoadDelayAfterTicks := by
  unfold Obligations.LoadDelayAfterTicks
  intro s t u x y n hset hticks
  obtain ⟨⟨w, hload, hreg, -⟩, -⟩ := timerInstructions u y
  refine ⟨w, hload, ?_⟩
  rw [hreg, hticks, State.tickTimes_dt_toNat, dt_of_exec_setDelay hset]

/-- An instruction that completes keeps `DT` or is the `SetDelay` that wrote it. -/
theorem dt_of_exec {i : Instr} (h : exec i s = .next t) : t.dt = s.dt ∨ ∃ x, i = .setDelay x ∧ t.dt = s.reg x := by
  refine or_iff_not_imp_left.2 fun hne => ?_
  obtain ⟨x, rfl⟩ := dt_mem_partWrites_iff.1 (mem_partWrites_of_changed h (p := .dt) hne)
  exact ⟨x, rfl, dt_of_exec_setDelay h⟩

/-- An instruction that completes keeps `ST` or is the `SetSound` that wrote it. -/
theorem st_of_exec {i : Instr} (h : exec i s = .next t) : t.st = s.st ∨ ∃ x, i = .setSound x ∧ t.st = s.reg x := by
  refine or_iff_not_imp_left.2 fun hne => ?_
  obtain ⟨x, rfl⟩ := st_mem_partWrites_iff.1 (mem_partWrites_of_changed h (p := .st) hne)
  exact ⟨x, rfl, st_of_exec_setSound h⟩

/-- Settles O43: a tick by its own equations, a step by the instruction it executed. -/
theorem onlyTicksCountDown : Obligations.OnlyTicksCountDown := by
  unfold Obligations.OnlyTicksCountDown
  refine fun s => ⟨⟨s.tickTimers_dt_toNat, s.tickTimers_st_toNat, transition_keptBut .tickTimers s, rfl⟩, ?_⟩
  intro t hstep
  obtain ⟨i, hi, hexec⟩ := step_eq_next_iff.1 hstep
  simp only [hi, Except.ok.injEq]
  exact ⟨dt_of_exec hexec, st_of_exec hexec⟩

end Sys2Proof.Machine
end

section
/-! The external interface and the errors (spec/60_exceptions.md): a step is never refused and its error carries the step's `PC`, an
error leaves no trace and repeats, every operation keeps the invariant of good states, and what reading the display and setting a
key do. -/

namespace Sys2Proof.Machine

variable {s t : State} {b : Byte} {f : Fault}

/-! ## Nothing is refused (spec/60_exceptions.md R240) -/

theorem State.guardRange_ne_refused {r : Result} {e : Refusal} (h : r ≠ .refused e) (k : Nat) :
    s.guardRange k r ≠ .refused e := by
  unfold State.guardRange
  split
  · exact raise_ne_refused _ e
  · exact h

theorem exec_ne_refused (i : Instr) (s : State) (e : Refusal) : exec i s ≠ .refused e := by
  cases i with
  | jump | jumpOffset => exact State.goto_ne_refused _ _ e
  | skipEqConst | skipNeqConst | skipEqReg | skipNeqReg | skipKey | skipNotKey => exact State.skipIf_ne_refused _ _ e
  | bcd | store | load | draw => exact State.guardRange_ne_refused (State.advance_ne_refused _ e) _
  | ret =>
    simp only [exec, execRet]
    split
    · exact State.goto_ne_refused _ _ e
    · exact raise_ne_refused _ e
  | call =>
    simp only [exec, execCall]
    split
    · exact State.goto_ne_refused _ _ e
    · exact raise_ne_refused _ e
  | waitKeyPress =>
    simp only [exec, execWaitKeyPress]
    split
    · exact nofun
    · exact State.advance_ne_refused _ e
  | cls | loadConst | addConst | move | or | and | xor | add | sub | shiftRight | subN | shiftLeft | setIndex | random
  | loadDelay | setDelay | setSound | addIndex | spriteAddr => exact State.advance_ne_refused _ e

theorem step_ne_refused (s : State) (e : Refusal) : step s ≠ .refused e := by
  unfold step
  split
  · exact raise_ne_refused _ e
  · exact exec_ne_refused _ s e

/-! ## What an error carries (spec/60_exceptions.md R241) -/

theorem pc_of_fetchDecode_error (h : s.fetchDecode = .error f) : f.pc = s.pc := by
  obtain ⟨-, rfl⟩ | ⟨-, -, rfl⟩ := State.fetchDecode_eq_error_iff.1 h <;> rfl

theorem pc_of_exec_fault {i : Instr} (h : exec i s = .fault f) : f.pc = s.pc := by
  obtain ⟨-, -, rfl⟩ | ⟨-, -, rfl⟩ | ⟨-, rfl⟩ := exec_eq_fault_iff.1 h <;> rfl

theorem pc_of_step_fault (h : step s = .fault f) : f.pc = s.pc := by
  obtain hf | ⟨i, -, hexec⟩ := step_eq_fault_iff.1 h
  · exact pc_of_fetchDecode_error hf
  · exact pc_of_exec_fault hexec

/-- Settles O8: of the three answers a step can give, it never gives a refusal. -/
theorem stepAnswersNextOrAnError : Obligations.StepAnswersNextOrAnError := by
  unfold Obligations.StepAnswersNextOrAnError
  intro s
  cases h : step s with
  | next t => exact .inl ⟨t, rfl⟩
  | fault f => exact .inr ⟨f, rfl, pc_of_step_fault h⟩
  | refused e => exact absurd h (step_ne_refused s e)

/-! ## The step operation (spec/60_exceptions.md R246) -/

theorem State.afterStep_of_next (h : step (s.withRand b) = .next t) : s.afterStep b = { t with rand := s.rand } := by
  simp [State.afterStep, h]

theorem State.afterStep_of_fault (h : step (s.withRand b) = .fault f) : s.afterStep b = s := by
  simp [State.afterStep, h]

theorem transition_step_of_fault (h : step (s.withRand b) = .fault f) :
    transition s (.step b) = (s, .stepped (some ⟨.error f, false⟩)) := by
  rw [transition, State.afterStep_of_fault h, stepOutput_of_fault h]

/-! ## Sequences of operations (spec/60_exceptions.md R251) -/

/-- What each operation of a sequence keeps, the sequence keeps. -/
theorem runOps_induction {P : State → Prop} {ops : List Operation}
    (hkeep : ∀ op ∈ ops, ∀ t, P t → P (transition t op).1) (h : P s) : P (runOps s ops) :=
  List.foldlRecOn ops (fun t op => (transition t op).1) h fun t ht op hop => hkeep op hop t ht

/-! ## Every operation keeps the invariant -/

theorem transition_load_of_gt {bytes : List Byte} (h : 3583 < bytes.length) :
    transition s (.load bytes) = (s, .loaded false) := by
  simp [transition, State.load, h]

/-- A load that fits ends at address 4094 at the latest; a longer one is refused whole. -/
theorem State.Inv.load (h : s.Inv) (bytes : List Byte) : (transition s (.load bytes)).1.Inv := by
  rcases Nat.lt_or_ge 3583 bytes.length with hlong | hfits
  · rwa [transition_load_of_gt hlong]
  · rw [transition_load_of_le hfits]
    exact { h with memory := Memory.wf_writeList bytes h.memory (by omega) }

theorem State.Inv.withRand (h : s.Inv) (b : Byte) : (s.withRand b).Inv := h.congr rfl rfl rfl rfl

theorem State.Inv.afterStep (h : s.Inv) (b : Byte) : (s.afterStep b).Inv := by
  obtain ⟨t, hnext⟩ | ⟨f, hfault, -⟩ := stepAnswersNextOrAnError (s.withRand b)
  · rw [State.afterStep_of_next hnext]
    exact ((h.withRand b).step hnext).congr rfl rfl rfl rfl
  · rwa [State.afterStep_of_fault hfault]

theorem State.Inv.transition (h : s.Inv) (op : Operation) : (transition s op).1.Inv := by
  cases op with
  | reset => exact resetIsGood
  | load bytes => exact h.load bytes
  | step b => exact h.afterStep b
  | tickTimers | keySet => exact h.congr rfl rfl rfl rfl
  | displayRead | decode => exact h

/-- Settles O55: each operation keeps the invariant, so a sequence of them does. -/
theorem everyOperationKeepsTheInvariant : Obligations.EveryOperationKeepsTheInvariant := by
  unfold Obligations.EveryOperationKeepsTheInvariant
  exact fun s ops h => runOps_induction (fun op _ t ht => ht.transition op) h

/-! ## An error repeats (spec/60_exceptions.md R246, R248) -/

/-- What a step raises depends on `PC`, memory, `SP` and `I` only. -/
theorem step_fault_congr (h : step s = .fault f) (hpc : t.pc = s.pc) (hmem : t.mem = s.mem) (hsp : t.sp = s.sp)
    (hi : t.i = s.i) : step t = .fault f := by
  have hword : t.fetchedWord = s.fetchedWord := by rw [State.fetchedWord, State.fetchedWord, hpc, hmem]
  have hrange (k : Nat) : t.RangeOk k ↔ s.RangeOk k := by rw [State.RangeOk, State.RangeOk, hi]
  simp only [step_eq_fault_iff, State.fetchDecode_eq_error_iff, State.fetchDecode_eq_ok_iff, exec_eq_fault_iff] at h ⊢
  simpa only [hword, hrange, hpc, hsp, hi] using h

/-- The random byte makes no difference to an error. -/
theorem step_withRand_fault (h : step s = .fault f) (b : Byte) : step (s.withRand b) = .fault f :=
  step_fault_congr h rfl rfl rfl rfl

/-- A tick, a key change or another step leaves a state from which the step raises the same error. -/
theorem transition_keeps_fault {op : Operation}
    (hop : op = .tickTimers ∨ (∃ k d, op = .keySet k d) ∨ ∃ b, op = .step b) (h : step s = .fault f) :
    step (transition s op).1 = .fault f := by
  obtain rfl | ⟨k, d, rfl⟩ | ⟨b, rfl⟩ := hop
  · exact step_fault_congr h rfl rfl rfl rfl
  · exact step_fault_congr h rfl rfl rfl rfl
  · rwa [transition_step_of_fault (step_withRand_fault h b)]

/-- Settles O48: what the error depends on is changed neither by the error itself nor by any of the operations. -/
theorem errorsLeaveNoTraceAndRepeat : Obligations.ErrorsLeaveNoTraceAndRepeat := by
  unfold Obligations.ErrorsLeaveNoTraceAndRepeat
  refine fun s b f h => ⟨transition_step_of_fault h, fun ops hops b' => step_withRand_fault ?_ b'⟩
  have hs : step s = .fault f := step_fault_congr h rfl rfl rfl rfl
  exact runOps_induction (P := fun t => step t = .fault f) (fun op hop t ht => transition_keeps_fault (hops op hop) ht) hs

/-! ## Reading the display (spec/60_exceptions.md R256) -/

theorem State.displayRead_eq_flatten (s : State) : s.displayRead = s.pix.flatten.toList := by
  simp only [State.displayRead, List.flatMap_def, Vector.flatten, Vector.toList, Array.toList_flatten, Array.toList_map,
    List.map_map]
  rfl

theorem State.displayRead_length (s : State) : s.displayRead.length = 2048 := by
  rw [State.displayRead_eq_flatten, Vector.length_toList]

theorem State.displayRead_getElem? (s : State) (row : Fin 32) (col : Fin 64) :
    s.displayRead[row.val * 64 + col.val]? = some (s.pix.pixel row col) := by
  have hlt : row.val * 64 + col.val < 32 * 64 := by omega
  have hrow : (row.val * 64 + col.val) / 64 = row.val := by omega
  have hcol : (row.val * 64 + col.val) % 64 = col.val := by omega
  rw [State.displayRead_eq_flatten, Vector.getElem?_toList, Vector.getElem?_eq_getElem hlt, Vector.getElem_flatten]
  simp only [hrow, hcol, Plane.pixel, Fin.getElem_fin]

/-- Settles O38. -/
theorem displayReadIsRowMajor : Obligations.DisplayReadIsRowMajor := by
  unfold Obligations.DisplayReadIsRowMajor
  exact fun s => ⟨rfl, s.displayRead, rfl, s.displayRead_length, s.displayRead_getElem?⟩

/-! ## Setting a key (spec/60_exceptions.md R254) -/

theorem State.keySet_key_getElem (s : State) (k : KeyNum) (down : Bool) (j : KeyNum) :
    (s.keySet k down).key[j] = if j = k then down else s.key[j] := by
  simp [Vector.getElem_set, Fin.ext_iff, eq_comm]

/-- Settles O45. -/
theorem keySetChangesOneKey : Obligations.KeySetChangesOneKey := by
  unfold Obligations.KeySetChangesOneKey
  exact fun s k down => ⟨s.keySet k down, rfl, s.keySet_key_getElem k down, transition_keptBut (.keySet k down) s⟩

end Sys2Proof.Machine
end

section
/-! A sequence too long for the memory from 512 on is refused whole (spec/70_reset_and_hazards.md R284, decision D25). -/

namespace Sys2Proof.Machine

theorem State.load_eq_none_iff {s : State} {bytes : List Byte} : s.load bytes = none ↔ 3583 < bytes.length := by
  simp [State.load]

theorem transition_load_of_eq_none {s : State} {bytes : List Byte} (h : s.load bytes = none) :
    transition s (.load bytes) = (s, .loaded false) := by
  simp only [transition, h]

/-- Settles O47: the length is exactly what the loader's own test refuses, and a refusal returns the state it was given. -/
theorem overlongLoadIsRefused : Obligations.OverlongLoadIsRefused := by
  unfold Obligations.OverlongLoadIsRefused
  exact fun _ _ hlen => transition_load_of_eq_none (State.load_eq_none_iff.2 hlen)

end Sys2Proof.Machine
end

section
/-! The identities of R164 (spec/41_alu.md section 6): the result and the flag of each flagged operation together lose nothing. They are
facts about the operations on two bytes; an instruction with `x` other than 15 completes with exactly that result and that flag. -/

namespace Sys2Proof.Machine

variable {s t : State}

/-! ## Result and flag of an operation -/

theorem flagByte_toNat_of_iff {b : Bool} {p : Prop} [Decidable p] (h : b = true ↔ p) :
    (flagByte b).toNat = if p then 1 else 0 := by
  simp only [← h, flagByte]
  split <;> rfl

theorem addFlagged_value_flag (a b : Byte) :
    256 * (flagByte (addFlagged a b).flag).toNat + (addFlagged a b).value.toNat = a.toNat + b.toNat := by
  rw [flagByte_toNat_of_iff (addFlagged_flag_iff a b), addFlagged_value_toNat]
  split <;> omega

theorem subFlagged_value_flag (a b : Byte) :
    (subFlagged a b).value.toNat + b.toNat = a.toNat + 256 * (1 - (flagByte (subFlagged a b).flag).toNat) := by
  rw [flagByte_toNat_of_iff (subFlagged_flag_iff a b), subFlagged_value_toNat]
  split <;> omega

theorem shrFlagged_value_flag (a : Byte) :
    a.toNat = 2 * (shrFlagged a).value.toNat + (flagByte (shrFlagged a).flag).toNat := by
  rw [flagByte_toNat_of_iff (shrFlagged_flag_iff a), shrFlagged_value_toNat]
  split <;> omega

theorem shlFlagged_value_flag (a : Byte) :
    2 * a.toNat = 256 * (flagByte (shlFlagged a).flag).toNat + (shlFlagged a).value.toNat := by
  rw [flagByte_toNat_of_iff (shlFlagged_flag_iff a), shlFlagged_value_toNat]
  split <;> omega

/-! ## Result and flag in the registers -/

/-- For `x` other than 15 the flag does not overwrite the result: what relates the two of the operation relates the two registers. -/
theorem regs_of_setFlagged_advance (p : Byte → Byte → Prop) {x : RegNum} {f : Flagged} (hx : x ≠ vf)
    (hp : p f.value (flagByte f.flag)) (h : (s.setFlagged x f).advance = .next t) : p (t.reg x) (t.reg vf) := by
  obtain rfl := (State.advance_eq_next ..).1 h
  simpa [State.reg_setFlagged, hx] using hp

/-- Settles O23: each instruction by the identity of its operation; `SubN` is the subtraction with the operands exchanged. -/
theorem arithmeticIdentities : Obligations.ArithmeticIdentities := by
  unfold Obligations.ArithmeticIdentities
  exact fun s t x y hx =>
    ⟨regs_of_setFlagged_advance (fun r f => 256 * f.toNat + r.toNat = (s.reg x).toNat + (s.reg y).toNat) hx
        (addFlagged_value_flag ..),
      regs_of_setFlagged_advance (fun r f => r.toNat + (s.reg y).toNat = (s.reg x).toNat + 256 * (1 - f.toNat)) hx
        (subFlagged_value_flag ..),
      regs_of_setFlagged_advance (fun r f => r.toNat + (s.reg x).toNat = (s.reg y).toNat + 256 * (1 - f.toNat)) hx
        (subFlagged_value_flag ..),
      regs_of_setFlagged_advance (fun r f => (s.reg x).toNat = 2 * r.toNat + f.toNat) hx (shrFlagged_value_flag _),
      regs_of_setFlagged_advance (fun r f => 2 * (s.reg x).toNat = 256 * f.toNat + r.toNat) hx (shlFlagged_value_flag _)⟩

end Sys2Proof.Machine
end
